-- ==== Sys2Proof/Word.lean ====
section
/-! DEFINITION. The word types of the block (spec/00_scope.md R14, spec/20_memory.md R57): a byte is 8 bits, a word
on the SPI port is 16 bits, a host command word is 32 bits. -/

namespace Sys2Proof

/-- One buffer byte, and every 8-bit operand field (R14, R76). -/
abbrev Byte := BitVec 8

/-- A word on the SPI port, a status word, a HOSTRES result (R57, R80, R84). -/
abbrev Word16 := BitVec 16

/-- A host command word HOSTCMD (R75). -/
abbrev Word32 := BitVec 32

end Sys2Proof
end

