-- ==== Sys2Proof/Config.lean ====
section
/-! DEFINITION. The parameters of spec/00_scope.md R10 as one record of plain data, and the opaque constants that
stand for what the spec leaves OPEN. Nothing can prove a value of an opaque constant, so what is proved holds for
every value (log entries 1, 3, 4, 9). -/

namespace Sys2Proof

/-- The SPI word table (R82). `txWriteHi` is TX_WRITE(0)[15:8] (R83). `ewbWakeup` and `ewbLowbat` are the two masks
of EWB (R82); like every word of the table they are parameters (log entry 10). -/
structure SpiWords where
  statusRead  : Word16
  fifoRead    : Word16
  txWriteHi   : Byte
  fifoClear   : Word16
  fifoAccept  : Word16
  pwrReceive  : Word16
  pwrStandby  : Word16
  pwrTransmit : Word16
  xcvrReset   : Word16
  ewbWakeup   : Word16
  ewbLowbat   : Word16
  deriving DecidableEq, Repr, Inhabited

/-- The status-word bit positions FFIT_BIT, WKUP_BIT, LBD_BIT and RSSI_BIT (R84). -/
structure StatusBits where
  ffit : Fin 16
  wkup : Fin 16
  lbd  : Fin 16
  rssi : Fin 16
  deriving DecidableEq, Repr, Inhabited

/-- One element of a list that `SpiSeq` sends: a word, or a DELAY of at least `ms` milliseconds (R17, R21). -/
inductive SeqItem where
  | word  (w : Word16)
  | delay (ms : Nat)
  deriving DecidableEq, Repr, Inhabited

/-- The auxiliary-event handling of a build (R42, R104): what the three parameters AuxT, AUX_INIT and AuxHandler can be
together. -/
inductive AuxUnit where
  /-- Nothing to hold and nothing to send. -/
  | absent
  /-- Any AuxT, with AUX_INIT and AuxHandler on it. -/
  | present (T : Type) (init : T) (handler : Word16 → T → List Word16 × T)
  deriving Inhabited

/-- The type AuxT of an auxiliary unit. -/
def AuxUnit.carrier : AuxUnit → Type
  | .absent => Unit
  | .present T _ _ => T

/-- AUX_INIT of an auxiliary unit. -/
def AuxUnit.init : (u : AuxUnit) → u.carrier
  | .absent => ()
  | .present _ i _ => i

/-- AuxHandler of an auxiliary unit. -/
def AuxUnit.handler : (u : AuxUnit) → Word16 → u.carrier → List Word16 × u.carrier
  | .absent => fun _ a => ([], a)
  | .present _ _ h => h

/-- AuxT, AUX_INIT and AuxHandler, OPEN (R10, R42, R104). Nothing can be proved of the type or of the function. The
limits of R104 and R137 are put on the words where they are sent. -/
opaque Config.auxUnit : AuxUnit

/-- AuxT, the opaque type of AUX_STATE (R42). -/
abbrev AuxT : Type := Config.auxUnit.carrier

/-- AUX_INIT (R42). -/
abbrev Config.auxInit : AuxT := Config.auxUnit.init

/-- AuxHandler before the limits of R104 and R137 are put on the words it returns (R104). -/
abbrev Config.auxHandler : Word16 → AuxT → List Word16 × AuxT := Config.auxUnit.handler

/-- The parameters of one build, R10 row by row. TX_OVERHEAD is 6 when `trailingByte`, else 5. AuxT, AUX_INIT and
AuxHandler are a type, a value of it and a function, no plain data, and stand outside, as `Config.auxUnit` (log
entry 9). -/
structure Params where
  /-- RX_BUFFER_SIZE, 1..255. -/
  rxBufferSize    : Nat
  /-- TX_BUFFER_SIZE, 1..255. -/
  txBufferSize    : Nat
  /-- CHANNEL_FREE_TIME, 0..255 ticks. -/
  channelFreeTime : Byte
  /-- TX_OVERHEAD = 6. -/
  trailingByte    : Bool
  sync0           : Byte
  sync1           : Byte
  preamble        : Byte
  dummy           : Byte
  /-- TICK_RECHECK_IN_CS. -/
  tickRecheck     : Bool
  /-- POLLING_BUILD (R13). -/
  pollingBuild    : Bool
  auxWakeup       : Bool
  auxLowbat       : Bool
  /-- CONFIG_SEQ (R136). -/
  configSeq       : List SeqItem
  /-- RESET_DELAY_MS, at least 150. -/
  resetDelayMs    : Nat
  spi             : SpiWords
  bits            : StatusBits
  /-- TICK_PERIOD in milliseconds. No rule reads it (R25, R178). -/
  tickPeriodMs    : Nat
  deriving DecidableEq, Repr, Inhabited

/-- RX_BUFFER_SIZE − 1, OPEN (R10). -/
opaque Config.rxBufferSizePred : Fin 255
/-- TX_BUFFER_SIZE − 1, OPEN (R10). -/
opaque Config.txBufferSizePred : Fin 255
/-- CHANNEL_FREE_TIME, OPEN (R10). -/
opaque Config.channelFreeTime : Byte
/-- SYNC0, OPEN (R10). -/
opaque Config.sync0 : Byte
/-- SYNC1, OPEN (R10). -/
opaque Config.sync1 : Byte
/-- PREAMBLE, OPEN (R10). -/
opaque Config.preamble : Byte
/-- DUMMY, OPEN (R10). -/
opaque Config.dummy : Byte
/-- CONFIG_SEQ before the limits of R136 are put on it, OPEN (R10). -/
opaque Config.configSeq : List SeqItem
/-- RESET_DELAY_MS − 150, OPEN (R10). -/
opaque Config.resetDelayExtra : Nat
/-- The SPI word table before R83 is put on it, OPEN (R10, R82). -/
opaque Config.spiWords : SpiWords
/-- The status bit positions before the distinctness of R84 is put on them, OPEN (R10, R84). -/
opaque Config.statusBits : StatusBits
/-- The value the `n`-th draw takes when it reads an UNSPEC cell (R55). A free value; log entry 4. -/
opaque Config.unspecByte : Nat → Byte
/-- The answer the `n`-th draw takes when it is a STATUS_READ answer that no harness fixed (R127); log entry 3. -/
opaque Config.statusAnswer : Nat → Word16
/-- The answer the `n`-th draw takes when it is a FIFO_READ answer that no harness fixed (R127); log entry 3. -/
opaque Config.fifoAnswer : Nat → Byte

end Sys2Proof
end

