-- ==== Sys2Proof/Syntax.lean ====
section
/-! DEFINITION. The instruction set: one constructor for each row of spec/opcode_table.json. -/

namespace Sys2Proof

/-- A host command as it stands on the host operation port: the 32-bit word, and the data vector when one is
delivered with it (spec/30_encoding.md R75). -/
structure HostCmd where
  word : Word32
  data : Option (List Byte)
  deriving DecidableEq, Repr, Inhabited

/-- The 25 rows of spec/opcode_table.json: the twelve host operations and ILLEGAL (HOSTCMD, R77), one handler
invocation (EVENT, R102), and the transceiver commands (SPI16, R82). -/
inductive Instr where
  /-- R90 -/
  | init
  /-- R91: A = type, B = length -/
  | enqueue (type length : Byte)
  /-- R92: A = type, B = length, and the data vector D -/
  | copyEnqueue (type length : Byte) (data : List Byte)
  /-- R93: A = index, B = value -/
  | writeTxp (index value : Byte)
  /-- R94 -/
  | poll
  /-- R95 -/
  | getLen
  /-- R96 -/
  | getType
  /-- R97: A = index -/
  | readRxp (index : Byte)
  /-- R98 -/
  | release
  /-- R117 -/
  | tick
  /-- R99 -/
  | swReset
  /-- R100: defined only when POLLING_BUILD = 1 -/
  | service
  /-- R78, R143: a command that decodes to no operation, kept as it was issued -/
  | illegal (word : Word32) (data : Option (List Byte))
  /-- R102: one handler invocation by agent IRQ -/
  | irqEvent
  /-- R128 -/
  | statusRead
  /-- R129 -/
  | fifoRead
  /-- R130 -/
  | txWrite (b : Byte)
  /-- R131, first word of FIFO_RESET -/
  | fifoClear
  /-- R131, second word of FIFO_RESET -/
  | fifoAccept
  /-- R132: bit 0 of `ewb` is AUX_WAKEUP, bit 1 is AUX_LOWBAT -/
  | pwrReceive (ewb : BitVec 2)
  /-- R133 -/
  | pwrStandby (ewb : BitVec 2)
  /-- R134 -/
  | pwrTransmit (ewb : BitVec 2)
  /-- R135 -/
  | xcvrReset
  /-- R136: the list is the parameter CONFIG_SEQ -/
  | configSeq
  /-- R137: the list W that AuxHandler returns -/
  | auxWords (words : List Word16)
  deriving DecidableEq, Repr, Inhabited

end Sys2Proof
end

