-- ==== Sys2Proof/Decode.lean ====
section
/-! DEFINITION. Decoding and encoding (spec/30_encoding.md R75 to R79, R82 to R84): host command words with their
data vector, and the words of the SPI port. The host decoder is total, an ill-formed command decodes to ILLEGAL;
an SPI word outside the command alphabet is rejected by name. -/

namespace Sys2Proof

/-! ## The fields of a host command word (R75) -/

/-- OP, bits 3:0. -/
def hostOp (w : Word32) : BitVec 4 := w.extractLsb' 0 4
/-- RSV0, bits 7:4. -/
def hostRsv0 (w : Word32) : BitVec 4 := w.extractLsb' 4 4
/-- A, bits 15:8. -/
def hostA (w : Word32) : Byte := w.extractLsb' 8 8
/-- B, bits 23:16. -/
def hostB (w : Word32) : Byte := w.extractLsb' 16 8
/-- RSV1, bits 31:24. -/
def hostRsv1 (w : Word32) : Byte := w.extractLsb' 24 8

/-- An operation that uses neither operand field: both must be 0 (R76). -/
def decodeNoOperands (c : HostCmd) (i : Instr) : Instr :=
  if hostA c.word ≠ 0 ∨ hostB c.word ≠ 0 then .illegal c.word c.data else i

/-- The opcode map of R77 on a command whose reserved fields are 0. -/
def decodeOp (polling : Bool) (c : HostCmd) : Instr :=
  let a := hostA c.word
  let b := hostB c.word
  match (hostOp c.word).toNat with
  | 0 => decodeNoOperands c .init
  | 1 => .enqueue a b
  | 2 =>
    match c.data with
    | some d => if d.length = b.toNat then .copyEnqueue a b d else .illegal c.word c.data
    | none => .illegal c.word c.data
  | 3 => .writeTxp a b
  | 4 => decodeNoOperands c .poll
  | 5 => decodeNoOperands c .getLen
  | 6 => decodeNoOperands c .getType
  | 7 => if b ≠ 0 then .illegal c.word c.data else .readRxp a
  | 8 => decodeNoOperands c .release
  | 9 => decodeNoOperands c .tick
  | 10 => decodeNoOperands c .swReset
  | 11 => if polling then decodeNoOperands c .service else .illegal c.word c.data
  | _ => .illegal c.word c.data

/-- The host decoder of R79, total on every word with or without a data vector. `polling` is POLLING_BUILD, the one
mode that changes decoding (R74). -/
def decodeHost (polling : Bool) (c : HostCmd) : Instr :=
  if hostRsv0 c.word ≠ 0 ∨ hostRsv1 c.word ≠ 0 then .illegal c.word c.data
  else if c.data.isSome ∧ hostOp c.word ≠ 2 then .illegal c.word c.data
  else decodeOp polling c

/-! ## The words of the SPI port (R82, R83) -/

/-- The EWB bits of a power command: bit 0 of `e` is AUX_WAKEUP, bit 1 is AUX_LOWBAT (R82). -/
def ewbMask (t : SpiWords) (e : BitVec 2) : Word16 :=
  (if e.getLsbD 0 then t.ewbWakeup else 0) ||| (if e.getLsbD 1 then t.ewbLowbat else 0)

/-- TX_WRITE(b): the high byte of TX_WRITE(0), then `b` (R82, R83). -/
def txWriteWord (t : SpiWords) (b : Byte) : Word16 := t.txWriteHi ++ b
/-- PWR_RECEIVE with its EWB bits (R132). -/
def pwrReceiveWord (t : SpiWords) (e : BitVec 2) : Word16 := t.pwrReceive ||| ewbMask t e
/-- PWR_STANDBY with its EWB bits (R133). -/
def pwrStandbyWord (t : SpiWords) (e : BitVec 2) : Word16 := t.pwrStandby ||| ewbMask t e
/-- PWR_TRANSMIT with its EWB bits (R134). -/
def pwrTransmitWord (t : SpiWords) (e : BitVec 2) : Word16 := t.pwrTransmit ||| ewbMask t e

/-- The EWB field of a build: (AUX_LOWBAT, AUX_WAKEUP) (R82). -/
def Params.ewb (p : Params) : BitVec 2 := BitVec.ofBool p.auxLowbat ++ BitVec.ofBool p.auxWakeup

/-- TX_OVERHEAD, 5 or 6 (R10). -/
def Params.txOverhead (p : Params) : Nat := if p.trailingByte then 6 else 5

/-- The default words of R82. PRESUMED by the spec itself (general knowledge); no rule depends on them, log
entry 16. -/
def defaultSpiWords : SpiWords where
  statusRead  := 0x0000
  fifoRead    := 0xB000
  txWriteHi   := 0xB8
  fifoClear   := 0xCA81
  fifoAccept  := 0xCA83
  pwrReceive  := 0x8281
  pwrStandby  := 0x8201
  pwrTransmit := 0x8221
  xcvrReset   := 0xFE00
  ewbWakeup   := 0x0002
  ewbLowbat   := 0x0004

/-- The default bit positions of R84, likewise general knowledge (log entry 16). -/
def defaultStatusBits : StatusBits where
  ffit := 15
  wkup := 12
  lbd  := 10
  rssi := 8

/-- Why a decoder rejects what stands at an interface. -/
inductive DecodeReject where
  /-- A 16-bit word that is none of the fixed commands of R82. -/
  | notAnSpiCommand (w : Word16)
  /-- A list of SPI words: CONFIG_SEQ and AUX_WORDS have no fixed words to decode (R136, R137). -/
  | sequenceNotFixed
  deriving DecidableEq, Repr

/-- The first EWB value, of the four, under which a power command has the word `w`. -/
def matchEwb (word : BitVec 2 → Word16) (w : Word16) : Option (BitVec 2) :=
  if word 0 = w then some 0 else if word 1 = w then some 1
  else if word 2 = w then some 2 else if word 3 = w then some 3 else none

/-- A power word of another EWB than the build's. The spec gives it no name; DESIGN CHOICE (log entry 23): it is matched
under all four EWB values, PWR_RECEIVE first, then PWR_STANDBY, then PWR_TRANSMIT. -/
def decodeOtherPower (t : SpiWords) (w : Word16) : Option Instr :=
  match matchEwb (pwrReceiveWord t) w with
  | some e => some (.pwrReceive e)
  | none =>
    match matchEwb (pwrStandbyWord t) w with
    | some e => some (.pwrStandby e)
    | none =>
      match matchEwb (pwrTransmitWord t) w with
      | some e => some (.pwrTransmit e)
      | none => none

/-- The power commands of R132, R133 and R134 in a build whose EWB field is `e`: the build's own words first (R82, R83),
each under its own name. -/
def decodePower (t : SpiWords) (e : BitVec 2) (w : Word16) : Option Instr :=
  if w = pwrReceiveWord t e then some (.pwrReceive e)
  else if w = pwrStandbyWord t e then some (.pwrStandby e)
  else if w = pwrTransmitWord t e then some (.pwrTransmit e)
  else decodeOtherPower t w

/-- The decoder of a raw SPI word under the word table `t`, in a build whose EWB field is `e` (R82, R83). -/
def decodeSpi (t : SpiWords) (e : BitVec 2) (w : Word16) : Except DecodeReject Instr :=
  if w = t.statusRead then .ok .statusRead
  else if w = t.fifoRead then .ok .fifoRead
  else if w.extractLsb' 8 8 = t.txWriteHi then .ok (.txWrite (w.extractLsb' 0 8))
  else if w = t.fifoClear then .ok .fifoClear
  else if w = t.fifoAccept then .ok .fifoAccept
  else if w = t.xcvrReset then .ok .xcvrReset
  else
    match decodePower t e w with
    | some i => .ok i
    | none => .error (.notAnSpiCommand w)

/-! ## Both together, and the encoder -/

/-- What can stand at an interface of the block in one of the five formats of R74. -/
inductive Encoded where
  /-- HOSTCMD on the host operation port. -/
  | host (c : HostCmd)
  /-- One SPI16 word. -/
  | spi (w : Word16)
  /-- A list of SPI words and DELAY items (CONFIG_SEQ, AUX_WORDS). -/
  | seq (items : List SeqItem)
  /-- EVENT: a handler invocation, no bits (R74). -/
  | event
  deriving DecidableEq, Repr

/-- The decoder of everything at an interface, under the build's parameters. -/
def decode (p : Params) : Encoded → Except DecodeReject Instr
  | .host c => .ok (decodeHost p.pollingBuild c)
  | .spi w => decodeSpi p.spi p.ewb w
  | .seq _ => .error .sequenceNotFixed
  | .event => .ok .irqEvent

/-- A host command word from its fields, reserved fields 0 (R75). -/
def hostWord (op : BitVec 4) (a b : Byte) : Word32 := (0 : BitVec 8) ++ b ++ a ++ (0 : BitVec 4) ++ op

/-- A host command with no data vector. -/
def plainHost (op : BitVec 4) (a b : Byte) : Encoded := .host { word := hostWord op a b, data := none }

/-- The words of an instruction (R75 to R77, R82). -/
def encode (p : Params) : Instr → Encoded
  | .init => plainHost 0 0 0
  | .enqueue t l => plainHost 1 t l
  | .copyEnqueue t l d => .host { word := hostWord 2 t l, data := some d }
  | .writeTxp i v => plainHost 3 i v
  | .poll => plainHost 4 0 0
  | .getLen => plainHost 5 0 0
  | .getType => plainHost 6 0 0
  | .readRxp i => plainHost 7 i 0
  | .release => plainHost 8 0 0
  | .tick => plainHost 9 0 0
  | .swReset => plainHost 10 0 0
  | .service => plainHost 11 0 0
  | .illegal w d => .host { word := w, data := d }
  | .irqEvent => .event
  | .statusRead => .spi p.spi.statusRead
  | .fifoRead => .spi p.spi.fifoRead
  | .txWrite b => .spi (txWriteWord p.spi b)
  | .fifoClear => .spi p.spi.fifoClear
  | .fifoAccept => .spi p.spi.fifoAccept
  | .pwrReceive e => .spi (pwrReceiveWord p.spi e)
  | .pwrStandby e => .spi (pwrStandbyWord p.spi e)
  | .pwrTransmit e => .spi (pwrTransmitWord p.spi e)
  | .xcvrReset => .spi p.spi.xcvrReset
  | .configSeq => .seq p.configSeq
  | .auxWords ws => .seq (ws.map .word)

/-! ## The opcode table's words -/

/-- The host command whose word is `w`. A COPY_ENQUEUE word is delivered with a data vector of B zero bytes, since
the bits the table gives no row are 0; no other operation has a data vector (R75, R78). Log entry 6. -/
def tableHostCmd (w : Nat) : HostCmd :=
  let word : Word32 := BitVec.ofNat 32 w
  { word := word,
    data := if hostOp word = 2 then some (List.replicate (hostB word).toNat 0) else none }

/-- What stands at an interface when the table's instruction with bits `w` does: 32 bits are a HOSTCMD, 16 bits an
SPI word. -/
def tableEncoded (nbits w : Nat) : Option Encoded :=
  if nbits = 32 then some (.host (tableHostCmd w))
  else if nbits = 16 then some (.spi (BitVec.ofNat 16 w))
  else none

/-- The instruction the decoder reads from the table's bits. The build is the one in which every row of the table
is defined: POLLING_BUILD = 1 (row SERVICE), the default SPI words (the table's own) and both AUX flags 0. Log
entry 6. -/
def decodeTableWord (nbits w : Nat) : Option Instr :=
  match tableEncoded nbits w with
  | some (.host c) => some (decodeHost true c)
  | some (.spi word) => (decodeSpi defaultSpiWords 0 word).toOption
  | _ => none

end Sys2Proof
end

