-- ==== Sys2Proof/WellFormed.lean ====
section
/-! DEFINITION. Which instructions and which parameters are well formed: the illegal host commands of
spec/30_encoding.md R78 written case by case (and not by way of the decoder of R79), the limits on CONFIG_SEQ and on
AuxHandler's words (R104, R136, R137), and the ranges of the parameters (R10, R11). -/

namespace Sys2Proof

/-- The operations that use neither operand field (R76). -/
def usesNoOperand (op : BitVec 4) : Bool :=
  op = 0x0 || op = 0x4 || op = 0x5 || op = 0x6 || op = 0x8 || op = 0x9 || op = 0xA || op = 0xB

/-- R78, cases (a) to (f): the host commands that are illegal. -/
def illegalHost (polling : Bool) (c : HostCmd) : Bool :=
  let op := hostOp c.word
  -- (a)
  (op = 0xC || op = 0xD || op = 0xE || op = 0xF)
  -- (b)
  || (op = 0xB && !polling)
  -- (c)
  || (hostRsv0 c.word != 0 || hostRsv1 c.word != 0)
  -- (d)
  || (usesNoOperand op && (hostA c.word != 0 || hostB c.word != 0)) || (op = 0x7 && hostB c.word != 0)
  -- (e)
  || (op = 0x2 && c.data.map List.length != some (hostB c.word).toNat)
  -- (f)
  || (op != 0x2 && c.data.isSome)

/-- The words that neither CONFIG_SEQ nor AuxHandler may hold (R136, R137): STATUS_READ, FIFO_READ, TX_WRITE,
FIFO_CLEAR, FIFO_ACCEPT, XCVR_RESET. -/
def SpiWords.reserved (t : SpiWords) (w : Word16) : Bool :=
  w = t.statusRead || w = t.fifoRead || w.extractLsb' 8 8 = t.txWriteHi || w = t.fifoClear || w = t.fifoAccept
    || w = t.xcvrReset

/-- An item CONFIG_SEQ may hold (R136). -/
def SeqItem.allowed (t : SpiWords) : SeqItem → Bool
  | .word w => !t.reserved w
  | .delay _ => true

/-- An instruction that the block can meet in the build `p`. -/
def Instr.wellFormed (p : Params) : Instr → Bool
  | .init => true
  | .enqueue _ _ => true
  | .copyEnqueue _ l d => d.length = l.toNat
  | .writeTxp _ _ => true
  | .poll => true
  | .getLen => true
  | .getType => true
  | .readRxp _ => true
  | .release => true
  | .tick => true
  | .swReset => true
  | .service => p.pollingBuild
  | .illegal w d => illegalHost p.pollingBuild { word := w, data := d }
  | .irqEvent => true
  | .statusRead => true
  | .fifoRead => true
  | .txWrite _ => true
  | .fifoClear => true
  | .fifoAccept => true
  | .pwrReceive _ => true
  | .pwrStandby _ => true
  | .pwrTransmit _ => true
  | .xcvrReset => true
  | .configSeq => p.configSeq.all (·.allowed p.spi)
  | .auxWords ws => ws.all (!p.spi.reserved ·)

/-- The command words that are not TX_WRITE, the power words under each EWB value of `es`. -/
def SpiWords.fixedWords (t : SpiWords) (es : List (BitVec 2)) : List Word16 :=
  [t.statusRead, t.fifoRead, t.fifoClear, t.fifoAccept, t.xcvrReset]
    ++ es.map (pwrReceiveWord t) ++ es.map (pwrStandbyWord t) ++ es.map (pwrTransmitWord t)

/-- No word of the list is a TX_WRITE word and no two are equal (R83). -/
def SpiWords.distinctOver (t : SpiWords) (es : List (BitVec 2)) : Bool :=
  (t.fixedWords es).all (fun w => w.extractLsb' 8 8 != t.txWriteHi) && decide (t.fixedWords es).Nodup

/-- R83 in a build whose EWB field is `e`. -/
def SpiWords.distinct (t : SpiWords) (e : BitVec 2) : Bool := t.distinctOver [e]

/-- R83 under all four EWB values at once: a raw word then tells the command and its EWB field. -/
def SpiWords.decodable (t : SpiWords) : Bool := t.distinctOver [0, 1, 2, 3]

/-- FFIT_BIT, WKUP_BIT, LBD_BIT and RSSI_BIT are distinct (R84). -/
def StatusBits.distinct (b : StatusBits) : Bool := decide [b.ffit, b.wkup, b.lbd, b.rssi].Nodup

/-- The ranges and constraints of R10, R11, R83, R84, R136. -/
def Params.wf (p : Params) : Bool :=
  (1 ≤ p.rxBufferSize && p.rxBufferSize ≤ 255) && (1 ≤ p.txBufferSize && p.txBufferSize ≤ 255)
    && p.configSeq.all (·.allowed p.spi) && 150 ≤ p.resetDelayMs
    && p.spi.distinct p.ewb && p.bits.distinct

end Sys2Proof
end

