-- ==== Sys2Proof/Machine/State.lean ====
section
/-! DEFINITION. The state of the block (spec/10_state.md), the environment's part and the observation
(spec/00_scope.md R7, R9, R127), the ways a step can stop, and the state at power-on (R50, R161). State is plain
data. -/

namespace Sys2Proof.Machine

/-- LINK_STATE, R29: three values; encoding 3 is not a value (93_implementation_defined.md I9, log entry 8). -/
inductive LinkState where
  | rxIdle | rxActive | tx
  deriving DecidableEq, Repr, Inhabited

/-- TX_STATUS, R31. -/
inductive TxStatus where
  | free | occupied
  deriving DecidableEq, Repr, Inhabited

/-- rx[s].STATUS, R38. -/
inductive SlotStatus where
  | free | complete
  deriving DecidableEq, Repr, Inhabited

/-- A buffer space (R51): (offset, byte) cells with rising offsets. An offset that is not listed is UNSPEC (R55): it
holds no value, so no cell can equal what an unlisted offset reads as. -/
abbrev Memory := List Host.Cell

/-- The canonical form: offsets strictly rising. -/
abbrev Memory.wf (m : Memory) : Prop := m.Pairwise (fun x y => x.1 < y.1)

/-- A receive slot (R38): STATUS, and the cells of RXSLOT(s), in which LEN, TYPE and CHK are offsets 0, 1, 2 and the
payload follows (R52). -/
structure RxSlot where
  status : SlotStatus
  cells  : Memory
  deriving DecidableEq, Repr, Inhabited

/-- MAIN's position (R19, R64): between operations, or the micro-step MAIN takes next. Inside TICK the position
holds the status word S that T1 read (R117). -/
inductive MainPos where
  /-- No operation in progress. -/
  | idle
  /-- INIT, before m2 (R90). -/
  | initBody
  /-- RELEASE, before m2 (R98). -/
  | releaseToggle
  /-- TICK, before T1 (R119). -/
  | tickSample
  /-- TICK, before T2, with T1's status word (R120). -/
  | tickDecide (status : Word16)
  /-- TICK, before T3 (R123). -/
  | tickStart
  /-- SW_RESET, before m2 (R99). -/
  | swResetBody
  deriving DecidableEq, Repr, Inhabited

/-- AUX_STATE (R42) as plain data. Its value, of the opaque type AuxT, is AUX_INIT taken through AuxHandler with each
of these status words, the newest first (`AuxState.value`). Only AuxHandler and INIT write AUX_STATE, so no other value
occurs (DEDUCED; that the words stand for the value is a DESIGN CHOICE, log entry 9). -/
structure AuxState where
  handled : List Word16
  deriving DecidableEq, Repr, Inhabited

/-- The observation of a run, R9. -/
inductive Obs where
  /-- A host operation and its HOSTRES result. -/
  | result (op : Instr) (res : Word16)
  /-- A word on the SPI port: its logical command (R83), the word, and the answer of a response-bearing command. -/
  | spi (cmd : Instr) (word : Word16) (answer : Option Word16)
  /-- A DELAY event (R21). -/
  | delay (ms : Nat)
  /-- A change of IE, to this value. -/
  | ie (now : Bool)
  /-- A change of MISUSE, to this value. -/
  | misuse (now : Byte)
  deriving DecidableEq, Repr, Inhabited

/-- What the environment does next (R6, R7, R27; log entry 2). -/
inductive Event where
  /-- MAIN issues this host command, as soon as it is between operations. -/
  | issue (c : HostCmd)
  /-- MAIN takes one micro-step of the operation in progress. -/
  | proceed
  /-- Agent IRQ gets the turn at this boundary. -/
  | irq
  /-- A word is placed on the SPI command port by itself (log entry 5). -/
  | spi (w : Word16)
  deriving DecidableEq, Repr, Inhabited

/-- The state. `params` is constant; `schedule`, `statusAnswers`, `fifoAnswers` and `draws` are the environment's
choices; `hostRes` and `obs` are what the block shows. Everything between is the block's own state (R26). -/
structure State where
  params        : Params
  linkState     : LinkState
  ie            : Bool
  txStatus      : TxStatus
  byteCount     : Word16
  totalBytes    : Word16
  rxChecksum    : Byte
  rxIn          : BitVec 1
  rxOut         : BitVec 1
  freeCount     : Byte
  rx0           : RxSlot
  rx1           : RxSlot
  txFrame       : Memory
  misuse        : Byte
  auxState      : AuxState
  main          : MainPos
  schedule      : List Event
  statusAnswers : List Word16
  fifoAnswers   : List Byte
  draws         : Nat
  hostRes       : Option Word16
  obs           : List Obs
  deriving DecidableEq, Repr, Inhabited

/-- Why the machine stops. The block itself raises no fault (R141). -/
inductive Fault where
  /-- Raised by the handler's TX branch when BYTE_COUNT < TOTAL_BYTES but TXFRAME has no cell BYTE_COUNT. R54 says
  that no run reaches such a state. Safe: the model stops where the spec has no cell to read (log entry 11). -/
  | txFrameOverrun
  deriving DecidableEq, Repr

/-- Why there is no meaning to run. -/
inductive Refusal where
  /-- Raised by `exec` for an instruction without a meaning; no arm of it does so. Safe. -/
  | notModelled (mnemonic : String)
  /-- Raised by `step` when the environment places on the SPI port a word, or a list, that is no fixed command of
  R82; the block issues no such word (R126). Safe (log entry 5). -/
  | notAnSpiCommand
  deriving DecidableEq, Repr

/-- The power-on state of the build `p`, R50. -/
def State.powerOn (p : Params) : State where
  params        := p
  linkState     := .rxIdle
  ie            := false
  txStatus      := .free
  byteCount     := 0
  totalBytes    := 0
  rxChecksum    := 0
  rxIn          := 0
  rxOut         := 0
  freeCount     := p.channelFreeTime
  rx0           := { status := .free, cells := [] }
  rx1           := { status := .free, cells := [] }
  txFrame       := []
  misuse        := 0
  auxState      := { handled := [] }
  main          := .idle
  schedule      := []
  statusAnswers := []
  fifoAnswers   := []
  draws         := 0
  hostRes       := none
  obs           := []

/-- The parameters at reset: the values R10 gives, and an opaque constant for every OPEN row. Where R83, R84 or R136
limits an OPEN row, a constant that breaks the limit is replaced, so that the legal values are what it ranges over
(log entry 1). -/
def resetParams : Params :=
  let spi := if Config.spiWords.distinct 0 then Config.spiWords else defaultSpiWords
  { rxBufferSize    := Config.rxBufferSizePred.val + 1
    txBufferSize    := Config.txBufferSizePred.val + 1
    channelFreeTime := Config.channelFreeTime
    trailingByte    := false
    sync0           := Config.sync0
    sync1           := Config.sync1
    preamble        := Config.preamble
    dummy           := Config.dummy
    tickRecheck     := true
    pollingBuild    := false
    auxWakeup       := false
    auxLowbat       := false
    configSeq       := Config.configSeq.filter (·.allowed spi)
    resetDelayMs    := 150 + Config.resetDelayExtra
    spi             := spi
    bits            := if Config.statusBits.distinct then Config.statusBits else defaultStatusBits
    tickPeriodMs    := 20 }

/-- The machine right after power-on (R161). -/
def State.reset : State := State.powerOn resetParams

end Sys2Proof.Machine
end

