-- ==== Sys2Proof/Machine/Flags.lean ====
section
/-! DEFINITION. Every flag the spec computes: the flags of a status word (spec/30_encoding.md R84), the header
checksum (R86), the bits of MISUSE (spec/10_state.md R41) and the numeric encodings of the stored condition bits
(R81). The block has no arithmetic flags (R43). -/

namespace Sys2Proof.Machine

/-- FFIT of the status word S: the FIFO wants service (R84, R105). -/
def ffit (p : Params) (S : Word16) : Bool := S.getLsbD p.bits.ffit.val
/-- WKUP of S, a wake-timer event; only AuxHandler reads it (R84). -/
def wkup (p : Params) (S : Word16) : Bool := S.getLsbD p.bits.wkup.val
/-- LBD of S, a low-battery event; only AuxHandler reads it (R84). -/
def lbd (p : Params) (S : Word16) : Bool := S.getLsbD p.bits.lbd.val
/-- RSSI of S: a carrier is present (R84, R120). -/
def rssi (p : Params) (S : Word16) : Bool := S.getLsbD p.bits.rssi.val

/-- The header checksum byte of length `l` and type `t` (R86). -/
def headerChecksum (l t : Byte) : Byte := l ^^^ t ^^^ 0xFF

/-- The running checksum says the header is valid (R86, R110). -/
def headerValid (running : Byte) : Bool := running = 0xFF

/-- M_ILLEGAL, bit 0 of MISUSE (R41). -/
def maskIllegal : Byte := 0x01
/-- M_RANGE, bit 1. -/
def maskRange : Byte := 0x02
/-- M_RELEASE, bit 2. -/
def maskRelease : Byte := 0x04
/-- M_TXWRITE, bit 3. -/
def maskTxWrite : Byte := 0x08

/-- The encoding of LINK_STATE (R29, R81). -/
def LinkState.code : LinkState → BitVec 2
  | .rxIdle => 0
  | .rxActive => 1
  | .tx => 2

/-- The encoding of TX_STATUS (R31, R81). -/
def TxStatus.code : TxStatus → BitVec 1
  | .free => 0
  | .occupied => 1

/-- The encoding of rx[s].STATUS (R38, R81). -/
def SlotStatus.code : SlotStatus → BitVec 1
  | .free => 0
  | .complete => 1

end Sys2Proof.Machine
end

