-- ==== Sys2Proof/Machine/Operands.lean ====
section
/-! DEFINITION. Operand forms and results: the offsets of the buffer spaces that a host index or a field stands for
(spec/20_memory.md R52, R53), the bounds of the spaces (R59), and the HOSTRES words (spec/30_encoding.md R80). Host
operands are unsigned bytes used as they stand (R76). -/

namespace Sys2Proof.Machine

/-- RXSLOT offset of LEN (R52). -/
def rxLenOffset : Nat := 0
/-- RXSLOT offset of TYPE (R52). -/
def rxTypeOffset : Nat := 1
/-- RXSLOT offset of CHK (R52). -/
def rxChkOffset : Nat := 2
/-- RXSLOT offset of PAYLOAD[i] (R52). -/
def rxPayloadOffset (i : Nat) : Nat := 3 + i
/-- The number of cells of RXSLOT(s), RX_BUFFER_SIZE + 3 (R52). -/
def rxSlotSize (p : Params) : Nat := p.rxBufferSize + 3

/-- TXFRAME offset of tx.LEN (R53). -/
def txLenOffset : Nat := 2
/-- TXFRAME offset of tx.TYPE (R53). -/
def txTypeOffset : Nat := 3
/-- TXFRAME offset of tx.CHK (R53). -/
def txChkOffset : Nat := 4
/-- TXFRAME offset of tx.PAYLOAD[i] (R53). -/
def txPayloadOffset (i : Nat) : Nat := 5 + i
/-- The number of cells of TXFRAME, TX_OVERHEAD + TX_BUFFER_SIZE (R53). -/
def txFrameSize (p : Params) : Nat := p.txOverhead + p.txBufferSize

/-- A READ_RXP index inside the payload area (R59, R97). -/
def rxIndexOk (p : Params) (i : Byte) : Bool := i.toNat < p.rxBufferSize
/-- A WRITE_TXP index inside the payload area (R59, R93). -/
def txIndexOk (p : Params) (i : Byte) : Bool := i.toNat < p.txBufferSize
/-- A payload length that fits the transmit buffer (R91). -/
def txLengthOk (p : Params) (l : Byte) : Bool := l.toNat ≤ p.txBufferSize

/-- A HOSTRES word: KIND in bits 15:8, VALUE in bits 7:0 (R80). -/
def hostResWord (kind value : Byte) : Word16 := kind ++ value

/-- DONE (R80). -/
def resDone : Word16 := hostResWord 0x00 0x00
/-- TXRESULT ENQUEUED. -/
def resEnqueued : Word16 := hostResWord 0x01 0x00
/-- TXRESULT OCCUPIED. -/
def resOccupied : Word16 := hostResWord 0x01 0x01
/-- TXRESULT ERROR. -/
def resError : Word16 := hostResWord 0x01 0x02
/-- RXSTATUS of a slot. -/
def resRxStatus (st : SlotStatus) : Word16 := hostResWord 0x02 (st.code.zeroExtend 8)
/-- BYTE. -/
def resByte (b : Byte) : Word16 := hostResWord 0x03 b
/-- BADINDEX with the offending index. -/
def resBadIndex (i : Byte) : Word16 := hostResWord 0xFE i
/-- ILLEGAL. -/
def resIllegal : Word16 := hostResWord 0xFF 0x00

end Sys2Proof.Machine
end

