-- ==== Sys2Proof/Machine/Ops.lean ====
section
/-! DEFINITION. The shared operations: buffer cells (spec/20_memory.md), draws (R18, R127), the SPI primitives (R17),
IE and critical sections (R18, R66), MISUSE (R41), the end of a host operation (R80, R89), the error results (R143,
R144), and whether the interrupt may be taken (R150 to R153). -/

namespace Sys2Proof.Machine

/-! ## Cells of one buffer space -/

/-- The byte a cell holds; none is UNSPEC (R55). -/
def Memory.byteAt : Memory → Nat → Option Byte
  | [], _ => none
  | (a, b) :: m, k => if a = k then some b else Memory.byteAt m k

/-- One byte stored: UNSPEC is replaced for good (R55). Keeps the offsets rising. -/
def Memory.store : Memory → Nat → Byte → Memory
  | [], k, v => [(k, v)]
  | (a, b) :: m, k, v =>
    if k < a then (k, v) :: (a, b) :: m
    else if k = a then (k, v) :: m
    else (a, b) :: Memory.store m k v

/-- The bytes of `d` stored at offsets `k`, `k + 1`, … in that order. -/
def Memory.storeList : Memory → Nat → List Byte → Memory
  | m, _, [] => m
  | m, k, v :: d => Memory.storeList (Memory.store m k v) (k + 1) d

/-! ## Draws (R18): a free value is used up by each -/

/-- A fresh draw(8) for an UNSPEC cell (R55). -/
def State.drawCell (s : State) : Byte × State :=
  (Config.unspecByte s.draws, { s with draws := s.draws + 1 })

/-- The 16 bits the transceiver answers to STATUS_READ: the next answer the environment has fixed, else a free
value (R127). -/
def State.drawStatus (s : State) : Word16 × State :=
  match s.statusAnswers with
  | S :: rest => (S, { s with statusAnswers := rest, draws := s.draws + 1 })
  | [] => (Config.statusAnswer s.draws, { s with draws := s.draws + 1 })

/-- The 8 bits the transceiver answers to FIFO_READ (R127). -/
def State.drawFifo (s : State) : Byte × State :=
  match s.fifoAnswers with
  | d :: rest => (d, { s with fifoAnswers := rest, draws := s.draws + 1 })
  | [] => (Config.fifoAnswer s.draws, { s with draws := s.draws + 1 })

/-! ## Receive slots -/

/-- rx[i]. -/
def State.rxSlot (s : State) (i : BitVec 1) : RxSlot := if i = 0 then s.rx0 else s.rx1

/-- Replace rx[i]. -/
def State.setRxSlot (s : State) (i : BitVec 1) (r : RxSlot) : State :=
  if i = 0 then { s with rx0 := r } else { s with rx1 := r }

/-- rx[i].STATUS <- v. -/
def State.setRxStatus (s : State) (i : BitVec 1) (v : SlotStatus) : State :=
  s.setRxSlot i { s.rxSlot i with status := v }

/-- The cell of RXSLOT(i) at an offset; none is UNSPEC. -/
def State.rxCell (s : State) (i : BitVec 1) (off : Nat) : Option Byte := (s.rxSlot i).cells.byteAt off

/-- MemWrite(RXSLOT(i), off, 1, v) (R16). -/
def State.rxWrite (s : State) (i : BitVec 1) (off : Nat) (v : Byte) : State :=
  s.setRxSlot i { s.rxSlot i with cells := (s.rxSlot i).cells.store off v }

/-- MemRead(RXSLOT(i), off, 1): an UNSPEC cell gives a fresh draw (R16, R55). -/
def State.rxRead (s : State) (i : BitVec 1) (off : Nat) : Byte × State :=
  match s.rxCell i off with
  | some b => (b, s)
  | none => s.drawCell

/-! ## The transmit frame -/

/-- The cell of TXFRAME at an offset; none is UNSPEC. Offsets 0 and 1 are the constants SYNC0 and SYNC1; the cell
tx.PAD after the payload area is UNSPEC for ever (R40, R53). -/
def State.txCell (s : State) (off : Nat) : Option Byte :=
  if off = 0 then some s.params.sync0
  else if off = 1 then some s.params.sync1
  else if off = txPayloadOffset s.params.txBufferSize then none
  else s.txFrame.byteAt off

/-- MemWrite(TXFRAME, off, 1, v) (R16). No rule writes offsets 0, 1 or tx.PAD, and `txCell` reads them as R40 says
whatever is written. -/
def State.txStore (s : State) (off : Nat) (v : Byte) : State :=
  { s with txFrame := s.txFrame.store off v }

/-- MemRead(TXFRAME, off, 1): an UNSPEC cell gives a fresh draw (R16, R55). -/
def State.txRead (s : State) (off : Nat) : Byte × State :=
  match s.txCell off with
  | some b => (b, s)
  | none => s.drawCell

/-! ## SPI transfers (R17, R126) -/

/-- One transfer: the command word goes out, and the answer, if any, comes back. -/
def State.spi (s : State) (cmd : Instr) (word : Word16) (answer : Option Word16) : State :=
  { s with obs := .spi cmd word answer :: s.obs }

/-- SpiRead(STATUS_READ): the answer S and the state after it (R128). -/
def State.spiStatusRead (s : State) : Word16 × State :=
  let r := s.drawStatus
  (r.1, r.2.spi .statusRead s.params.spi.statusRead (some r.1))

/-- SpiRead(FIFO_READ): the answer d and the state after it (R129). -/
def State.spiFifoRead (s : State) : Byte × State :=
  let r := s.drawFifo
  (r.1, r.2.spi .fifoRead s.params.spi.fifoRead (some (r.1.zeroExtend 16)))

/-- Spi(TX_WRITE(b)) (R130). -/
def State.spiTxWrite (s : State) (b : Byte) : State := s.spi (.txWrite b) (txWriteWord s.params.spi b) none
/-- Spi(FIFO_CLEAR) (R131). -/
def State.spiFifoClear (s : State) : State := s.spi .fifoClear s.params.spi.fifoClear none
/-- Spi(FIFO_ACCEPT) (R131). -/
def State.spiFifoAccept (s : State) : State := s.spi .fifoAccept s.params.spi.fifoAccept none
/-- Spi(PWR_RECEIVE) with EWB bits `e` (R132). -/
def State.spiPwrReceive (s : State) (e : BitVec 2) : State :=
  s.spi (.pwrReceive e) (pwrReceiveWord s.params.spi e) none
/-- Spi(PWR_STANDBY) (R133). -/
def State.spiPwrStandby (s : State) (e : BitVec 2) : State :=
  s.spi (.pwrStandby e) (pwrStandbyWord s.params.spi e) none
/-- Spi(PWR_TRANSMIT) (R134). -/
def State.spiPwrTransmit (s : State) (e : BitVec 2) : State :=
  s.spi (.pwrTransmit e) (pwrTransmitWord s.params.spi e) none
/-- Spi(XCVR_RESET) (R135). -/
def State.spiXcvrReset (s : State) : State := s.spi .xcvrReset s.params.spi.xcvrReset none

/-- A DELAY event (R21). -/
def State.delay (s : State) (ms : Nat) : State := { s with obs := .delay ms :: s.obs }

/-- SpiSeq (R17): each element in order, under the logical name `cmd`. -/
def State.spiSeq (s : State) (cmd : Instr) : List SeqItem → State
  | [] => s
  | .word w :: items => State.spiSeq (s.spi cmd w none) cmd items
  | .delay ms :: items => State.spiSeq (s.delay ms) cmd items

/-- SpiSeq(FIFO_RESET) = [FIFO_CLEAR, FIFO_ACCEPT] (R82, R131). -/
def State.fifoReset (s : State) : State := s.spiFifoClear.spiFifoAccept

/-! ## IE, critical sections, MISUSE -/

/-- IE <- v; a change is observed (R9, R30). -/
def State.setIe (s : State) (v : Bool) : State :=
  if s.ie = v then s else { s with ie := v, obs := .ie v :: s.obs }

/-- CS with body `body` (R18, R66): IE <- 0, the body, IE <- 1 without condition. -/
def State.criticalSection (s : State) (body : State → State) : State := (body (s.setIe false)).setIe true

/-- misuse(M) with the mask of M: the bit is sticky, a change is observed (R9, R18, R41). -/
def State.setMisuse (s : State) (mask : Byte) : State :=
  if s.misuse ||| mask = s.misuse then s
  else { s with misuse := s.misuse ||| mask, obs := .misuse (s.misuse ||| mask) :: s.obs }

/-! ## The end of a host operation -/

/-- `return r` of the operation `op` (R18, R89): MAIN is between operations again and the host has its result. DESIGN
CHOICE (log entry 13): R9 does not say where an operation of several micro-steps stands in the observation; it stands here,
at its return, and its issue records nothing. -/
def State.finish (s : State) (op : Instr) (r : Word16) : State :=
  { s with main := .idle, hostRes := some r, obs := .result op r :: s.obs }

/-- `raise Illegal(w)`: M_ILLEGAL and the result ILLEGAL, nothing else (R143). -/
def State.raiseIllegal (s : State) (op : Instr) : State := (s.setMisuse maskIllegal).finish op resIllegal

/-- `raise BadIndex(i)`: M_RANGE and the result BADINDEX, no cell touched (R144). -/
def State.raiseBadIndex (s : State) (op : Instr) (i : Byte) : State :=
  (s.setMisuse maskRange).finish op (resBadIndex i)

/-! ## The interrupt -/

/-- Agent IRQ may step (R7, R101): IE = 1, and not a polling build. Entry saves nothing and changes nothing, return
restores nothing (R152, R153), so taking the interrupt is running the handler on the state as it stands. -/
def State.irqPermitted (s : State) : Bool := s.ie && !s.params.pollingBuild

/-- The value of AUX_STATE, in AuxT (R42, R104; log entry 9). -/
def AuxState.value (a : AuxState) : AuxT := a.handled.foldr (fun S v => (Config.auxHandler S v).2) Config.auxInit

/-- AUX_INIT (R42). -/
def AuxState.init : AuxState := { handled := [] }

/-- AUX_STATE after AuxHandler has run on the status word S. -/
def AuxState.after (a : AuxState) (S : Word16) : AuxState := { handled := S :: a.handled }

/-- The words AuxHandler may not issue are dropped from an OPEN handler's list (R104, R137). -/
def auxAllowed (t : SpiWords) (ws : List Word16) : List Word16 := ws.filter (!t.reserved ·)

/-- AuxHandler(S, a) in the build `p`: the identity with no words when both AUX flags are 0 (R104). -/
def auxResult (p : Params) (S : Word16) (a : AuxState) : List Word16 × AuxState :=
  if p.auxWakeup || p.auxLowbat then (auxAllowed p.spi (Config.auxHandler S a.value).1, a.after S)
  else ([], a)

/-- (W, AUX_STATE) <- AuxHandler(S, AUX_STATE); SpiSeq(W) (R102, R104). -/
def State.auxDispatch (s : State) (S : Word16) : State :=
  let r := auxResult s.params S s.auxState
  State.spiSeq { s with auxState := r.2 } (.auxWords r.1) (r.1.map .word)

end Sys2Proof.Machine
end

