-- ==== Sys2Proof/Machine/Irq.lean ====
section
/-! DEFINITION. The interrupt handler, one invocation (spec/41_irq_service.md R101 to R116), and IRQ_EVENT, which runs
it. -/

namespace Sys2Proof.Machine

/-- EPILOGUE: LINK_STATE <- RX_IDLE, then FIFO_RESET (R115). -/
def State.epilogue (s : State) : State := State.fifoReset { s with linkState := .rxIdle }

/-- The RX_IDLE branch (R107): read the length byte, accept the frame if rx[RX_IN] is FREE, else drop it. TOTAL_BYTES
is written before the test. -/
def handleRxIdle (s : State) : State :=
  let r := s.spiFifoRead
  let d := r.1
  let s := { r.2 with totalBytes := d.zeroExtend 16 + 3 }
  match (s.rxSlot s.rxIn).status with
  | .free =>
    { s.rxWrite s.rxIn rxLenOffset d with rxChecksum := d, byteCount := 1, linkState := .rxActive }
  | .complete => s.epilogue

/-- The bounded store of R109: offset `k` of RXSLOT(RX_IN), or the byte is dropped. -/
def State.rxStoreBounded (s : State) (k : Nat) (d : Byte) : State :=
  if k < rxSlotSize s.params then s.rxWrite s.rxIn k d else s

/-- Advance and completion (R111, R112): the frame goes on while BYTE_COUNT < TOTAL_BYTES (the test of R102; R112
says "=", the same in every reachable state, log entry 14). -/
def State.rxAdvance (s : State) (k : Word16) : State :=
  let s := { s with byteCount := k + 1 }
  if s.byteCount < s.totalBytes then s
  else State.epilogue { s.setRxStatus s.rxIn .complete with rxIn := s.rxIn ^^^ 1 }

/-- The RX_ACTIVE branch (R108 to R112). -/
def handleRxActive (s : State) : State :=
  let r := s.spiFifoRead
  let d := r.1
  let k := s.byteCount
  let s := State.rxStoreBounded { r.2 with rxChecksum := r.2.rxChecksum ^^^ d } k.toNat d
  if k = 2 ∧ headerValid s.rxChecksum = false then s.epilogue else s.rxAdvance k

/-- The end of a transmission (R114). -/
def State.txDone (s : State) : State :=
  let s := { s with txStatus := TxStatus.free }
  ((s.spiPwrReceive s.params.ewb).spiTxWrite s.params.dummy).epilogue

/-- One frame byte sent (R113). -/
def State.txSendByte (s : State) : State :=
  let r := s.txRead s.byteCount.toNat
  { r.2.spiTxWrite r.1 with byteCount := s.byteCount + 1 }

/-- The TX branch (R113, R114). Where TXFRAME has no cell BYTE_COUNT, which R54 excludes, the model stops (log
entry 11). -/
def handleTx (s : State) : Host.Outcome State Fault Refusal :=
  if s.byteCount < s.totalBytes then
    if s.byteCount.toNat < txFrameSize s.params then .next s.txSendByte else .fault .txFrameOverrun
  else .next s.txDone

/-- The prologue: the status word S, and the state after AuxHandler (R103, R104). -/
def State.handlerPrologue (s : State) : Word16 × State :=
  let r := s.spiStatusRead
  (r.1, r.2.auxDispatch r.1)

/-- One handler invocation, complete (R102): the prologue, then, when FFIT = 1, the branch on LINK_STATE (R106). With
FFIT = 0 the invocation ends after the prologue in every branch (R105). -/
def handler (s : State) : Host.Outcome State Fault Refusal :=
  let r := s.handlerPrologue
  let flag := ffit r.2.params r.1
  match r.2.linkState with
  | .rxIdle => .next (if flag then handleRxIdle r.2 else r.2)
  | .rxActive => .next (if flag then handleRxActive r.2 else r.2)
  | .tx => if flag then handleTx r.2 else .next r.2

/-- IRQ_EVENT (R101, R102): agent IRQ runs the handler when it may step. While it may not (IE = 0, or a polling build),
it does not step and nothing changes (R7, R30). -/
def execIrqEvent (s : State) : Host.Outcome State Fault Refusal :=
  if s.irqPermitted then handler s else .next s

end Sys2Proof.Machine
end

