-- ==== Sys2Proof/Machine/HostOps.lean ====
section
/-! DEFINITION. The driver operations (spec/40_driver_api.md R89 to R100) and ILLEGAL (spec/60_exceptions.md R143). A
meaning runs ONE micro-step (spec/20_memory.md R64): the one at MAIN's position, or the first if MAIN is not inside
this operation (log entry 7). -/

namespace Sys2Proof.Machine

/-! ## INIT (R90) -/

/-- m1: IE <- 0. -/
def initStart (s : State) : State := { s.setIe false with main := .initBody }

/-- The registers INIT writes (R90, R163). MISUSE and the buffer cells are not among them. -/
def State.initRegisters (s : State) : State :=
  { s with
    linkState  := .rxIdle
    byteCount  := 0
    totalBytes := 0
    rxChecksum := 0
    txStatus   := .free
    rx0        := { s.rx0 with status := .free }
    rx1        := { s.rx1 with status := .free }
    rxIn       := 0
    rxOut      := 0
    freeCount  := s.params.channelFreeTime
    auxState   := .init }

/-- m2: CONFIG_SEQ, the registers, PWR_RECEIVE, FIFO_RESET, IE <- 1, return DONE. -/
def initFinish (s : State) : State :=
  let s := (s.spiSeq .configSeq s.params.configSeq).initRegisters
  (((s.spiPwrReceive s.params.ewb).fifoReset).setIe true).finish .init resDone

/-- INIT (R90). -/
def execInit (s : State) : Host.Outcome State Fault Refusal :=
  .next (match s.main with
    | .initBody => initFinish s
    | _ => initStart s)

/-! ## The transmit side (R91 to R93) -/

/-- The header fields and TX_STATUS of a successful enqueue (R91). -/
def State.enqueueHeader (s : State) (type length : Byte) : State :=
  { ((s.txStore txLenOffset length).txStore txTypeOffset type).txStore txChkOffset (headerChecksum length type) with
    txStatus := .occupied }

/-- ENQUEUE (R91). OCCUPIED is tested before ERROR (R147). -/
def enqueueOp (type length : Byte) (s : State) : State :=
  match s.txStatus with
  | .occupied => s.finish (.enqueue type length) resOccupied
  | .free =>
    if txLengthOk s.params length then
      (s.enqueueHeader type length).finish (.enqueue type length) resEnqueued
    else s.finish (.enqueue type length) resError

/-- ENQUEUE (R91). -/
def execEnqueue (type length : Byte) (s : State) : Host.Outcome State Fault Refusal :=
  .next (enqueueOp type length s)

/-- COPY_ENQUEUE of a data vector of the right length (R92): the copy is made only once both checks have passed
(90_conflicts.md C3). -/
def copyEnqueueOp (type length : Byte) (data : List Byte) (s : State) : State :=
  match s.txStatus with
  | .occupied => s.finish (.copyEnqueue type length data) resOccupied
  | .free =>
    if txLengthOk s.params length then
      (State.enqueueHeader { s with txFrame := s.txFrame.storeList (txPayloadOffset 0) data } type length).finish
        (.copyEnqueue type length data) resEnqueued
    else s.finish (.copyEnqueue type length data) resError

/-- COPY_ENQUEUE (R92). A data vector whose length is not B is an illegal command (R76, R78(e)); the decoder gives no
such instruction (log entry 18). -/
def execCopyEnqueue (type length : Byte) (data : List Byte) (s : State) : Host.Outcome State Fault Refusal :=
  .next (if data.length = length.toNat then copyEnqueueOp type length data s
    else s.raiseIllegal (.copyEnqueue type length data))

/-- WRITE_TXP (R93): the index test first (R144), then the misuse record, then the write, which is made even while
OCCUPIED. -/
def writeTxpOp (index value : Byte) (s : State) : State :=
  if txIndexOk s.params index then
    let s := match s.txStatus with
      | .occupied => s.setMisuse maskTxWrite
      | .free => s
    (s.txStore (txPayloadOffset index.toNat) value).finish (.writeTxp index value) resDone
  else s.raiseBadIndex (.writeTxp index value) index

/-- WRITE_TXP (R93). -/
def execWriteTxp (index value : Byte) (s : State) : Host.Outcome State Fault Refusal :=
  .next (writeTxpOp index value s)

/-! ## The receive side (R94 to R98) -/

/-- POLL (R94): a snapshot of rx[RX_OUT].STATUS. -/
def execPoll (s : State) : Host.Outcome State Fault Refusal :=
  .next (s.finish .poll (resRxStatus (s.rxSlot s.rxOut).status))

/-- `return BYTE(MemRead(RXSLOT(RX_OUT), off, 1))`, what the three accessors share (R95 to R97). -/
def State.returnRxByte (s : State) (op : Instr) (off : Nat) : State :=
  let r := s.rxRead s.rxOut off
  r.2.finish op (resByte r.1)

/-- GET_LEN (R95). -/
def execGetLen (s : State) : Host.Outcome State Fault Refusal := .next (s.returnRxByte .getLen rxLenOffset)

/-- GET_TYPE (R96). -/
def execGetType (s : State) : Host.Outcome State Fault Refusal := .next (s.returnRxByte .getType rxTypeOffset)

/-- READ_RXP (R97). -/
def execReadRxp (index : Byte) (s : State) : Host.Outcome State Fault Refusal :=
  .next (if rxIndexOk s.params index then s.returnRxByte (.readRxp index) (rxPayloadOffset index.toNat)
    else s.raiseBadIndex (.readRxp index) index)

/-- RELEASE m1 (R98): a slot that is not COMPLETE is recorded misuse; the slot becomes FREE. -/
def releaseStart (s : State) : State :=
  let s := match (s.rxSlot s.rxOut).status with
    | .complete => s
    | .free => s.setMisuse maskRelease
  { s.setRxStatus s.rxOut .free with main := .releaseToggle }

/-- RELEASE m2 (R98): RX_OUT advances to the other slot. -/
def releaseFinish (s : State) : State := State.finish { s with rxOut := s.rxOut ^^^ 1 } .release resDone

/-- RELEASE (R98). -/
def execRelease (s : State) : Host.Outcome State Fault Refusal :=
  .next (match s.main with
    | .releaseToggle => releaseFinish s
    | _ => releaseStart s)

/-! ## Chip reset and polling service (R99, R100) -/

/-- SW_RESET m1: IE <- 0. -/
def swResetStart (s : State) : State := { s.setIe false with main := .swResetBody }

/-- SW_RESET m2: DELAY, XCVR_RESET, DELAY, IE <- 1. -/
def swResetFinish (s : State) : State :=
  let ms := s.params.resetDelayMs
  (((((s.delay ms).spiXcvrReset).delay ms).setIe true)).finish .swReset resDone

/-- SW_RESET (R99). -/
def execSwReset (s : State) : Host.Outcome State Fault Refusal :=
  .next (match s.main with
    | .swResetBody => swResetFinish s
    | _ => swResetStart s)

/-- The outcome of the handler body, then `return DONE` (R100). -/
def serviceReturn : Host.Outcome State Fault Refusal → Host.Outcome State Fault Refusal
  | .next s => .next (s.finish .service resDone)
  | .fault f => .fault f
  | .refused r => .refused r

/-- SERVICE (R100): the handler body, not gated by IE. In a build with POLLING_BUILD = 0 the word is illegal (R78(b)),
and the decoder gives no such instruction (log entry 18). -/
def execService (s : State) : Host.Outcome State Fault Refusal :=
  if s.params.pollingBuild then serviceReturn (handler s) else .next (s.raiseIllegal .service)

/-- ILLEGAL (R143): no part of the command word is recorded in the block's state. -/
def execIllegal (word : Word32) (data : Option (List Byte)) (s : State) : Host.Outcome State Fault Refusal :=
  .next (s.raiseIllegal (.illegal word data))

end Sys2Proof.Machine
end

