-- ==== Sys2Proof/Machine/Spi.lean ====
section
/-! DEFINITION. The transceiver commands (spec/43_transceiver_commands.md R128 to R137), one meaning per row: one
transfer on the SPI port, over the SPI primitives that the host operations and the handler use too. An answer is not
stored (R128). Log entry 5. -/

namespace Sys2Proof.Machine

/-- STATUS_READ (R128). -/
def execStatusRead (s : State) : Host.Outcome State Fault Refusal := .next s.spiStatusRead.2
/-- FIFO_READ (R129). -/
def execFifoRead (s : State) : Host.Outcome State Fault Refusal := .next s.spiFifoRead.2
/-- TX_WRITE(b) (R130). -/
def execTxWrite (b : Byte) (s : State) : Host.Outcome State Fault Refusal := .next (s.spiTxWrite b)
/-- FIFO_CLEAR (R131). -/
def execFifoClear (s : State) : Host.Outcome State Fault Refusal := .next s.spiFifoClear
/-- FIFO_ACCEPT (R131). -/
def execFifoAccept (s : State) : Host.Outcome State Fault Refusal := .next s.spiFifoAccept
/-- PWR_RECEIVE (R132). -/
def execPwrReceive (ewb : BitVec 2) (s : State) : Host.Outcome State Fault Refusal := .next (s.spiPwrReceive ewb)
/-- PWR_STANDBY (R133). -/
def execPwrStandby (ewb : BitVec 2) (s : State) : Host.Outcome State Fault Refusal := .next (s.spiPwrStandby ewb)
/-- PWR_TRANSMIT (R134). -/
def execPwrTransmit (ewb : BitVec 2) (s : State) : Host.Outcome State Fault Refusal := .next (s.spiPwrTransmit ewb)
/-- XCVR_RESET (R135). -/
def execXcvrReset (s : State) : Host.Outcome State Fault Refusal := .next s.spiXcvrReset
/-- CONFIG_SEQ (R136): the parameter's list, in order. -/
def execConfigSeq (s : State) : Host.Outcome State Fault Refusal := .next (s.spiSeq .configSeq s.params.configSeq)
/-- AUX_WORDS (R137): the list W, in order. -/
def execAuxWords (words : List Word16) (s : State) : Host.Outcome State Fault Refusal :=
  .next (s.spiSeq (.auxWords words) (words.map .word))

end Sys2Proof.Machine
end

