-- ==== Sys2Proof/Machine/Tick.lean ====
section
/-! DEFINITION. The tick scheduler (spec/42_tick_scheduler.md R117 to R123): TICK in its four micro-steps. -/

namespace Sys2Proof.Machine

/-- FREE_COUNT <- CHANNEL_FREE_TIME. -/
def State.resetFreeCount (s : State) : State := { s with freeCount := s.params.channelFreeTime }

/-- T0, the busy check, outside any critical section (R118). -/
def tickT0 (s : State) : State :=
  match s.linkState with
  | .rxIdle => { s with main := .tickSample }
  | .rxActive => s.resetFreeCount.finish .tick resDone
  | .tx => s.resetFreeCount.finish .tick resDone

/-- T1, the carrier sample: CS { S <- SpiRead(STATUS_READ) } (R119). -/
def tickT1 (s : State) : State :=
  let r := (s.setIe false).spiStatusRead
  { r.2.setIe true with main := .tickDecide r.1 }

/-- The saturating decrement (R121). -/
def countDown (n : Byte) : Byte := if n = 0 then 0 else n - 1

/-- T2: carrier, count and gate (R120 to R122). -/
def tickT2 (S : Word16) (s : State) : State :=
  if rssi s.params S then s.resetFreeCount.finish .tick resDone
  else
    let s := { s with freeCount := countDown s.freeCount }
    if s.freeCount = 0 ∧ s.txStatus = .occupied then { s with main := .tickStart }
    else s.finish .tick resDone

/-- The transmission start, in DOC's order (R123). -/
def State.startTransmission (s : State) : State :=
  let s := s.spiPwrStandby s.params.ewb
  let r := s.txRead txLenOffset
  let s := { r.2 with
    totalBytes := r.1.zeroExtend 16 + BitVec.ofNat 16 r.2.params.txOverhead
    byteCount  := 0
    linkState  := .tx }
  ((s.spiTxWrite s.params.preamble).spiTxWrite s.params.preamble).spiPwrTransmit s.params.ewb

/-- The body of T3's critical section (R123): with TICK_RECHECK_IN_CS = 1 a reception that began after T0 wins. -/
def tickStartBody (s : State) : State :=
  if s.params.tickRecheck = true ∧ s.linkState ≠ .rxIdle then s.resetFreeCount else s.startTransmission

/-- T3 (R123). -/
def tickT3 (s : State) : State := (s.criticalSection tickStartBody).finish .tick resDone

/-- TICK (R117): the micro-step at MAIN's position, T0 if MAIN is not inside TICK (log entry 7). -/
def execTick (s : State) : Host.Outcome State Fault Refusal :=
  .next (match s.main with
    | .tickSample => tickT1 s
    | .tickDecide S => tickT2 S s
    | .tickStart => tickT3 s
    | _ => tickT0 s)

end Sys2Proof.Machine
end

