-- ==== Sys2Proof/Machine/Dispatch.lean ====
section
/-! DEFINITION. One arm per constructor of Instr. -/

namespace Sys2Proof.Machine

def exec (i : Instr) (s : State) : Host.Outcome State Fault Refusal :=
  match i with
  | .init => Sys2Proof.Machine.execInit s
  | .enqueue type length => Sys2Proof.Machine.execEnqueue type length s
  | .copyEnqueue type length data => Sys2Proof.Machine.execCopyEnqueue type length data s
  | .writeTxp index value => Sys2Proof.Machine.execWriteTxp index value s
  | .poll => Sys2Proof.Machine.execPoll s
  | .getLen => Sys2Proof.Machine.execGetLen s
  | .getType => Sys2Proof.Machine.execGetType s
  | .readRxp index => Sys2Proof.Machine.execReadRxp index s
  | .release => Sys2Proof.Machine.execRelease s
  | .tick => Sys2Proof.Machine.execTick s
  | .swReset => Sys2Proof.Machine.execSwReset s
  | .service => Sys2Proof.Machine.execService s
  | .illegal word data => Sys2Proof.Machine.execIllegal word data s
  | .irqEvent => Sys2Proof.Machine.execIrqEvent s
  | .statusRead => Sys2Proof.Machine.execStatusRead s
  | .fifoRead => Sys2Proof.Machine.execFifoRead s
  | .txWrite b => Sys2Proof.Machine.execTxWrite b s
  | .fifoClear => Sys2Proof.Machine.execFifoClear s
  | .fifoAccept => Sys2Proof.Machine.execFifoAccept s
  | .pwrReceive ewb => Sys2Proof.Machine.execPwrReceive ewb s
  | .pwrStandby ewb => Sys2Proof.Machine.execPwrStandby ewb s
  | .pwrTransmit ewb => Sys2Proof.Machine.execPwrTransmit ewb s
  | .xcvrReset => Sys2Proof.Machine.execXcvrReset s
  | .configSeq => Sys2Proof.Machine.execConfigSeq s
  | .auxWords words => Sys2Proof.Machine.execAuxWords words s

end Sys2Proof.Machine
end

