-- ==== Sys2Proof/Machine/Fetch.lean ====
section
/-! DEFINITION. What runs next. The block fetches no instructions from memory (spec/10_state.md R28): MAIN's next
command, the interleaving of IRQ with MAIN (spec/00_scope.md R6, R7; spec/20_memory.md R64) and, by itself, a word on
the SPI port, come from the schedule, the environment's choice (log entries 2, 5, 20, 21). -/

namespace Sys2Proof.Machine

/-- The operation in progress at a position of MAIN, if any (R19). -/
def operationAt : MainPos → Option Instr
  | .idle => none
  | .initBody => some .init
  | .releaseToggle => some .release
  | .tickSample => some .tick
  | .tickDecide _ => some .tick
  | .tickStart => some .tick
  | .swResetBody => some .swReset

/-- What a step finds to do, and the state it does it in. -/
inductive Fetched where
  /-- Nothing: MAIN is between operations and no agent takes a turn. -/
  | wait (s : State)
  /-- MAIN's next micro-step of the operation in progress. -/
  | resume (i : Instr) (s : State)
  /-- What stands at an interface, taken off the schedule. -/
  | present (e : Encoded) (s : State)
  deriving DecidableEq, Repr

/-- MAIN's turn: the operation in progress goes on, else MAIN waits. -/
def mainTurn (s : State) : Fetched :=
  match operationAt s.main with
  | some i => .resume i s
  | none => .wait s

/-- The next thing to run. A command waits at the head of the schedule while an operation is in progress (R6). With
the schedule used up, the operation in progress goes on and then the block waits (R9, R161). -/
def fetch (s : State) : Fetched :=
  match s.schedule with
  | [] => mainTurn s
  | .issue c :: rest =>
    match operationAt s.main with
    | some i => .resume i s
    | none => .present (.host c) { s with schedule := rest }
  | .proceed :: rest => mainTurn { s with schedule := rest }
  | .irq :: rest => .present .event { s with schedule := rest }
  | .spi w :: rest => .present (.spi w) { s with schedule := rest }

/-- `s` with a host command as the next to issue: MAIN between operations, the command at the schedule's head. A
SERVICE word takes the polling build, the only one that defines it (R77). -/
def State.withHostCmd (s : State) (c : HostCmd) : State :=
  { s with
    params := { s.params with pollingBuild := s.params.pollingBuild || hostOp c.word = 11 }
    main := .idle
    schedule := .issue c :: s.schedule }

/-- `s` with a word next on the SPI port, under the default words, those of the opcode table (R82). -/
def State.withSpiWord (s : State) (w : Word16) : State :=
  { s with
    params := { s.params with spi := defaultSpiWords }
    schedule := .spi w :: s.schedule }

/-- `s` with the opcode table's instruction of bits `w` as what the next step runs (log entry 6). -/
def State.withTableWord (s : State) (nbits w : Nat) : State :=
  match tableEncoded nbits w with
  | some (.host c) => s.withHostCmd c
  | some (.spi word) => s.withSpiWord word
  | _ => s

end Sys2Proof.Machine
end

