-- ==== Sys2Proof/Machine/Step.lean ====
section
/-! DEFINITION. One step: one MAIN micro-step, one IRQ invocation, or waiting (spec/20_memory.md R64). -/

namespace Sys2Proof.Machine

/-- One step of the block: what the schedule and MAIN's position give is decoded and run. -/
def step (s : State) : Host.Outcome State Fault Refusal :=
  match fetch s with
  | .wait s' => .next s'
  | .resume i s' => exec i s'
  | .present e s' =>
    match decode s'.params e with
    | .ok i => exec i s'
    | .error _ => .refused .notAnSpiCommand

/-- `s` with the instruction whose table bits are `w` as the next to run (log entry 6). -/
def State.withFetchWord (s : State) (nbits w : Nat) : State := s.withTableWord nbits w

end Sys2Proof.Machine
end

