-- ==== Sys2Proof/Safety.lean ====
section
/-! DEFINITION. The terms claims are stated in: the invariants of spec/10_state.md section 9, the environment of a
run, what one handler invocation shows, and a run that goes on. -/

namespace Sys2Proof.Machine

/-! ## Invariants -/

/-- R46: in RX_ACTIVE the slot being filled is FREE, 1 ≤ BYTE_COUNT < TOTAL_BYTES = LEN + 3. -/
abbrev RxInv (s : State) : Prop :=
  s.linkState = .rxActive →
    (s.rxSlot s.rxIn).status = .free ∧ 1 ≤ s.byteCount.toNat ∧ s.byteCount.toNat < s.totalBytes.toNat ∧
      (s.rxCell s.rxIn rxLenOffset).map (fun l => l.toNat + 3) = some s.totalBytes.toNat

/-- R47: in TX the slot is OCCUPIED, TOTAL_BYTES = tx.LEN + TX_OVERHEAD, BYTE_COUNT ≤ TOTAL_BYTES. -/
abbrev TxInv (s : State) : Prop :=
  s.linkState = .tx →
    s.txStatus = .occupied ∧ s.byteCount.toNat ≤ s.totalBytes.toNat ∧
      (s.txCell txLenOffset).map (fun l => l.toNat + s.params.txOverhead) = some s.totalBytes.toNat

/-- A written header with the checksum of R86, and a length that fits (R49). -/
def headerQueued (s : State) : Bool :=
  match s.txCell txLenOffset, s.txCell txTypeOffset, s.txCell txChkOffset with
  | some l, some t, some c => c = l ^^^ t ^^^ 0xFF && l.toNat ≤ s.params.txBufferSize
  | _, _, _ => false

/-- R49: OCCUPIED implies a queued header. -/
abbrev QueueInv (s : State) : Prop := s.txStatus = .occupied → headerQueued s = true

/-- MAIN is inside TICK, past T0. -/
def insideTick : MainPos → Bool
  | .tickSample => true
  | .tickDecide _ => true
  | .tickStart => true
  | _ => false

/-- MAIN is in the body of INIT or SW_RESET, which runs masked (R66). -/
def insideMasked : MainPos → Bool
  | .initBody => true
  | .swResetBody => true
  | _ => false

/-- What TICK has established at its position: past T0 no transmission is on, and before T3 the counter is 0 and a
frame is waiting (R118, R122). -/
abbrev TickInv (s : State) : Prop :=
  (insideTick s.main = true → s.linkState ≠ .tx) ∧
    (s.main = .tickStart → s.txStatus = .occupied ∧ s.freeCount = 0)

/-- The bodies of INIT and SW_RESET run with IE = 0 (R66). -/
abbrev MaskInv (s : State) : Prop := insideMasked s.main = true → s.ie = false

/-- The link invariant: R46, R47, R49, with what TICK, INIT and SW_RESET have established at their positions. -/
abbrev LinkInv (s : State) : Prop := RxInv s ∧ TxInv s ∧ QueueInv s ∧ TickInv s ∧ MaskInv s

/-- RX_OUT as it will be when a RELEASE in progress has returned (R48, R98). -/
def ringOut (s : State) : BitVec 1 := if s.main = .releaseToggle then s.rxOut ^^^ 1 else s.rxOut

/-- R48: while M_RELEASE = 0, the COMPLETE slots are the 0, 1 or 2 slots from RX_OUT on. Between the micro-steps of
RELEASE the rule is read with the RX_OUT that RELEASE is about to write. -/
abbrev RingInv (s : State) : Prop :=
  s.misuse &&& maskRelease = 0 →
    if s.rxIn = ringOut s then s.rx0.status = s.rx1.status
    else (s.rxSlot (ringOut s)).status = .complete ∧ (s.rxSlot s.rxIn).status = .free

/-- Every listed offset lies in the interval. -/
abbrev Memory.within (m : Memory) (lo hi : Nat) : Prop := ∀ c ∈ m, lo ≤ c.1 ∧ c.1 < hi

/-- The three buffer spaces are in canonical form and list only cells that R52 and R53 give, other than the constants
SYNC0, SYNC1 and the never-written tx.PAD. -/
abbrev MemInv (s : State) : Prop :=
  s.rx0.cells.wf ∧ s.rx0.cells.within 0 (rxSlotSize s.params) ∧
  s.rx1.cells.wf ∧ s.rx1.cells.within 0 (rxSlotSize s.params) ∧
  s.txFrame.wf ∧ s.txFrame.within txLenOffset (txPayloadOffset s.params.txBufferSize)

/-! ## The environment -/

/-- The same block in front of another environment (R7, R127). -/
def State.withEnvironment (s : State) (schedule : List Event) (status : List Word16) (fifo : List Byte) (draws : Nat) :
    State :=
  { s with schedule := schedule, statusAnswers := status, fifoAnswers := fifo, draws := draws }

/-- The schedule holds only what R5 to R7 give the environment: host commands and the turns of MAIN and IRQ. -/
def linkOnly : List Event → Bool
  | [] => true
  | .spi _ :: _ => false
  | _ :: rest => linkOnly rest

/-- The next STATUS_READ answer. -/
def statusAnswerOf (s : State) : Word16 := s.statusAnswers.headD (Config.statusAnswer s.draws)

/-- The FIFO_READ answer of a handler invocation: the draw after the status answer. -/
def fifoAnswerOf (s : State) : Byte := s.fifoAnswers.headD (Config.fifoAnswer (s.draws + 1))

/-! ## What the rules show -/

/-- A list of SPI words and DELAY items as observed, newest first. -/
def seqObs (cmd : Instr) (items : List SeqItem) : List Obs :=
  (items.map fun
    | .word w => Obs.spi cmd w none
    | .delay ms => Obs.delay ms).reverse

/-- AuxHandler's result in the next invocation. -/
def auxResultOf (s : State) : List Word16 × AuxState := auxResult s.params (statusAnswerOf s) s.auxState

/-- The state a handler invocation has reached after STATUS_READ and AuxHandler (R103, R104). -/
def prologueState (s : State) : State :=
  { s with
    statusAnswers := s.statusAnswers.tail
    draws := s.draws + 1
    auxState := (auxResultOf s).2
    obs := seqObs (.auxWords (auxResultOf s).1) ((auxResultOf s).1.map .word)
      ++ .spi .statusRead s.params.spi.statusRead (some (statusAnswerOf s)) :: s.obs }

/-- FIFO_CLEAR, FIFO_ACCEPT as observed, newest first (R131). -/
def fifoResetObs (p : Params) : List Obs :=
  [.spi .fifoAccept p.spi.fifoAccept none, .spi .fifoClear p.spi.fifoClear none]

/-- A STATUS_READ or FIFO_READ transfer as observed. -/
def fifoReadObs (s : State) (d : Byte) : Obs := .spi .fifoRead s.params.spi.fifoRead (some (d.zeroExtend 16))

/-- The bytes of the TX_WRITE commands of an observation, oldest first. -/
def sentBytes : List Obs → List Byte
  | [] => []
  | .spi (.txWrite b) _ _ :: rest => sentBytes rest ++ [b]
  | _ :: rest => sentBytes rest

/-- One handler invocation from `s` leads to `t`: run by agent IRQ when it may step, and by SERVICE, which then returns
DONE, in a polling build (R100, R101). -/
def HandlerGives (s t : State) : Prop :=
  (s.ie = true → s.params.pollingBuild = false → exec .irqEvent s = .next t) ∧
  (s.params.pollingBuild = true → exec .service s =
    .next { t with main := .idle, hostRes := some 0x0000, obs := .result .service 0x0000 :: t.obs })

/-- The bounded store of R109, as every clause on RX_ACTIVE uses it: cell BYTE_COUNT of rx[RX_IN] gets the byte when
BYTE_COUNT < RX_BUFFER_SIZE + 3, and no other cell changes. -/
def StoredBounded (s t : State) : Prop :=
  (s.byteCount.toNat < s.params.rxBufferSize + 3 → t.rxCell s.rxIn s.byteCount.toNat = some (fifoAnswerOf s)) ∧
  (∀ i a, (i ≠ s.rxIn ∨ a ≠ s.byteCount.toNat ∨ s.params.rxBufferSize + 3 ≤ s.byteCount.toNat) →
    t.rxCell i a = s.rxCell i a)

/-- The host command of TICK (R77). -/
def tickCmd : HostCmd := { word := 0x00000009, data := none }
/-- The host command of INIT (R77). -/
def initCmd : HostCmd := { word := 0x00000000, data := none }

/-- A step that neither faults nor is refused. -/
def Goes (o : Host.Outcome State Fault Refusal) : Prop := ∃ t, o = .next t

end Sys2Proof.Machine
end

