-- ==== Sys2Proof/Certificates/Slice0/Obligations.lean ====
section
/-! DEFINITION. The statements for the provers. A next state is written as the old state with the fields that change;
every field not named is unchanged, and so is everything the clauses on cells leave out. Three conventions in them are
the model's: the schedule that says who moves next (log entry 2), the counter of draws (log entry 4), and the fields
`hostRes` and `obs`, newest first, that hold the results and the observation of R9 (log entry 13). -/

open Sys2Proof Sys2Proof.Machine

/-! ## Decoding and encoding -/

/-- R79, R78: decoding a host command gives ILLEGAL exactly for the commands that the cases of R78 name. -/
def Obligations.HostCommandIllegalExactlyAsListed : Prop :=
  ∀ (polling : Bool) (c : HostCmd),
    decodeHost polling c = .illegal c.word c.data ↔ illegalHost polling c = true

/-- Encoding after decoding: every host command, legal or not, is the encoding of what it decodes to, so no bit and no
data byte is dropped. -/
def Obligations.HostDecodeLosesNothing : Prop :=
  ∀ (p : Params) (c : HostCmd), encode p (decodeHost p.pollingBuild c) = .host c

/-- Decoding after encoding, for every instruction of the table whose words are fixed: all host operations, ILLEGAL,
the event and the nine single SPI commands. CONFIG_SEQ and AUX_WORDS, which have no fixed words, are left out (R136,
R137). In a build whose words satisfy R83 for its own EWB it holds of each instruction the build has, so of a power
command with the build's EWB as its operand (first clause). Where the words satisfy R83 under the four EWB values at
once, it holds of a power command with every operand (second clause); for an operand other than the build's EWB that is
the model's choice and no rule's: R132 to R134 give no operand, which is log entry 10, and that a power word of another
EWB decodes is log entry 23. -/
def Obligations.DecodeOfEncodeIsIdentity : Prop :=
  ∀ (p : Params) (i : Instr), i.wellFormed p = true → i ≠ .configSeq → (∀ ws, i ≠ .auxWords ws) →
    (p.spi.distinct p.ewb = true →
      (∀ e, i = .pwrReceive e ∨ i = .pwrStandby e ∨ i = .pwrTransmit e → e = p.ewb) →
      decode p (encode p i) = .ok i) ∧
    (p.spi.decodable = true → decode p (encode p i) = .ok i)

/-- A raw SPI word decodes to at most one command, and that command's word is the raw word (R82, R83). For a power word
of an EWB other than the build's it is the model's choice that it decodes and to which command (log entry 23), and that
the command's word has the EWB of its operand (log entry 10): R82 gives a build one EWB. -/
def Obligations.SpiDecodeGivesBackTheWord : Prop :=
  ∀ (p : Params) (w : Word16) (i : Instr), decodeSpi p.spi p.ewb w = .ok i → encode p i = .spi w

/-- Words written out bit by bit from R75, R77 and R82 decode to the instructions they stand for. The two SPI words are
defaults of R82, general knowledge by the spec's own marking (log entry 16); the last is PWR_RECEIVE in a build with
AUX_WAKEUP = 1 and AUX_LOWBAT = 0, whose EWB the model writes as the operand 1 (log entry 10). -/
def Obligations.SampleWordsDecode : Prop :=
  decodeHost false { word := 0b00000000000000100001000000000001#32, data := none } = .enqueue 0x10 2 ∧
  decodeHost false { word := 0b00000000010000100000000100000011#32, data := none } = .writeTxp 1 0x42 ∧
  decodeHost false { word := 0b00000000000000000000000000001001#32, data := none } = .tick ∧
  decodeHost false { word := 0b00000000000000000000000000001011#32, data := none } = .illegal 0x0000000B none ∧
  decodeHost true { word := 0b00000000000000000000000000001011#32, data := none } = .service ∧
  decodeSpi defaultSpiWords 0 0b1011100000101101#16 = .ok (.txWrite 0x2D) ∧
  decodeSpi defaultSpiWords 1 0b1000001010000011#16 = .ok (.pwrReceive 1)

/-! ## The step -/

/-- Between operations, the host command at the head of the schedule is decoded and run; the nIRQ turn runs the handler
event; a word on the SPI port is decoded and run. The only other effect of the step is that the schedule moves on. The
schedule, and a word that stands on the SPI port by itself, are the model's choice (log entries 2, 5). -/
def Obligations.StepRunsDecodedInstruction : Prop :=
  (∀ (s : State) (c : HostCmd) (rest : List Event), s.main = .idle → s.schedule = .issue c :: rest →
    step s = exec (decodeHost s.params.pollingBuild c) { s with schedule := rest }) ∧
  (∀ (s : State) (rest : List Event), s.schedule = .irq :: rest →
    step s = exec .irqEvent { s with schedule := rest }) ∧
  (∀ (s : State) (w : Word16) (i : Instr) (rest : List Event), s.schedule = .spi w :: rest →
    decodeSpi s.params.spi s.params.ewb w = .ok i → step s = exec i { s with schedule := rest })

/-- R6, R64: MAIN starts an operation only after the one before has returned. While one is in progress a waiting
command stays on the schedule and MAIN's next micro-step is the operation's (second and third clause; that the
environment's choice stands in a schedule is log entry 2). The first clause is the model's choice and no rule's: with
the schedule used up, the operation in progress goes on by itself (log entry 20). -/
def Obligations.OperationInProgressGoesOnFirst : Prop :=
  ∀ (s : State) (i : Instr), operationAt s.main = some i →
    (s.schedule = [] → step s = exec i s) ∧
    (∀ c rest, s.schedule = .issue c :: rest → step s = exec i s) ∧
    (∀ rest, s.schedule = .proceed :: rest → step s = exec i { s with schedule := rest })

/-- R161, R9: with no operation in progress and nothing more from the environment, the block waits, unchanged. That a
step then exists and changes nothing is the model's choice (log entry 20). -/
def Obligations.BlockWaitsForTheHost : Prop :=
  ∀ (s : State), s.main = .idle → s.schedule = [] → step s = .next s

/-! ## INIT, SW_RESET -/

/-- INIT m1 and SW_RESET m1 (R90, R99): IE <- 0 and nothing else. That `exec` starts the operation at a position of MAIN
inside another one is the model's choice; no step does so (log entry 7). -/
def Obligations.InitAndSwResetMaskInterruptFirst : Prop :=
  ∀ (s : State),
    (s.main ≠ .initBody → exec .init s = .next { s with
      ie := false, main := .initBody, obs := (if s.ie then [.ie false] else []) ++ s.obs }) ∧
    (s.main ≠ .swResetBody → exec .swReset s = .next { s with
      ie := false, main := .swResetBody, obs := (if s.ie then [.ie false] else []) ++ s.obs })

/-- INIT m2 (R90): the registers, the SPI trace CONFIG_SEQ, PWR_RECEIVE, FIFO_CLEAR, FIFO_ACCEPT, IE <- 1, and DONE.
MISUSE and every buffer cell are unchanged. Each power word, here and wherever a build sends one, is its base word OR
the wake-up mask if AUX_WAKEUP OR the low-battery mask if AUX_LOWBAT (R82); that the masks are parameters is the
model's choice (log entry 10). The value of AUX_STATE is then AUX_INIT; the plain data that stand for it are the model's
(log entry 9). -/
def Obligations.InitBodyResetsLinkState : Prop :=
  (∀ (p : Params),
    let ewb := (if p.auxWakeup then p.spi.ewbWakeup else 0) ||| (if p.auxLowbat then p.spi.ewbLowbat else 0)
    pwrReceiveWord p.spi p.ewb = p.spi.pwrReceive ||| ewb ∧ pwrStandbyWord p.spi p.ewb = p.spi.pwrStandby ||| ewb ∧
    pwrTransmitWord p.spi p.ewb = p.spi.pwrTransmit ||| ewb) ∧
  AuxState.init.value = Config.auxInit ∧
  ∀ (s : State), s.main = .initBody → exec .init s = .next { s with
    linkState := .rxIdle, byteCount := 0, totalBytes := 0, rxChecksum := 0, txStatus := .free
    rx0 := { s.rx0 with status := .free }, rx1 := { s.rx1 with status := .free }, rxIn := 0, rxOut := 0
    freeCount := s.params.channelFreeTime, auxState := .init
    ie := true, main := .idle, hostRes := some 0x0000
    obs := .result .init 0x0000 :: ((if s.ie then [] else [.ie true]) ++ fifoResetObs s.params
      ++ .spi (.pwrReceive s.params.ewb) (pwrReceiveWord s.params.spi s.params.ewb) none
      :: seqObs .configSeq s.params.configSeq ++ s.obs) }

/-- R163: two INITs in a row leave the same state as one; only the observation is longer. -/
def Obligations.SecondInitChangesNothing : Prop :=
  ∀ (s : State), s.main = .idle →
    ∃ t u, Host.Core.run core 2 { s with schedule := [.issue initCmd] } = .next t ∧
      Host.Core.run core 4 { s with schedule := [.issue initCmd, .issue initCmd] } = .next u ∧
      u = { t with obs := u.obs } ∧ t.linkState = .rxIdle ∧ t.ie = true ∧ t.misuse = s.misuse

/-- SW_RESET m2 (R99): DELAY, XCVR_RESET, DELAY, IE <- 1, DONE. No other block state is written. -/
def Obligations.SwResetWritesOnlyInterruptEnable : Prop :=
  ∀ (s : State), s.main = .swResetBody → exec .swReset s = .next { s with
    ie := true, main := .idle, hostRes := some 0x0000
    obs := .result .swReset 0x0000 :: ((if s.ie then [] else [.ie true]) ++ .delay s.params.resetDelayMs
      :: .spi .xcvrReset s.params.spi.xcvrReset none :: .delay s.params.resetDelayMs :: s.obs) }

/-! ## The transmit side -/

/-- R91: ENQUEUE with the slot FREE and a length that fits writes the header and sets OCCUPIED; no other cell or
register changes and there is no SPI transfer. -/
def Obligations.EnqueueWritesHeader : Prop :=
  ∀ (type length : Byte) (s : State), s.txStatus = .free → length.toNat ≤ s.params.txBufferSize →
    ∃ t, exec (.enqueue type length) s = .next t ∧
      t.txCell 2 = some length ∧ t.txCell 3 = some type ∧ t.txCell 4 = some (length ^^^ type ^^^ 0xFF) ∧
      (∀ a, a ≠ 2 → a ≠ 3 → a ≠ 4 → t.txCell a = s.txCell a) ∧
      t = { s with txFrame := t.txFrame, txStatus := .occupied, main := .idle, hostRes := some 0x0100
                   obs := .result (.enqueue type length) 0x0100 :: s.obs }

/-- R91, R145, R147: a failed ENQUEUE or COPY_ENQUEUE changes nothing. OCCUPIED whenever a frame is pending, whatever
the length; ERROR when the slot is FREE and the length exceeds the capacity. -/
def Obligations.FailedEnqueueChangesNothing : Prop :=
  ∀ (type length : Byte) (data : List Byte) (s : State) (i : Instr),
    (i = .enqueue type length ∨ (i = .copyEnqueue type length data ∧ data.length = length.toNat)) →
    (s.txStatus = .occupied → exec i s = .next { s with
      main := .idle, hostRes := some 0x0101, obs := .result i 0x0101 :: s.obs }) ∧
    (s.txStatus = .free → s.params.txBufferSize < length.toNat → exec i s = .next { s with
      main := .idle, hostRes := some 0x0102, obs := .result i 0x0102 :: s.obs })

/-- R92: COPY_ENQUEUE on a FREE slot with a length that fits copies the data vector, writes the header and sets
OCCUPIED; the payload cells at B and above, and everything else, are unchanged. -/
def Obligations.CopyEnqueueCopiesThenQueues : Prop :=
  ∀ (type length : Byte) (data : List Byte) (s : State), data.length = length.toNat → s.txStatus = .free →
    length.toNat ≤ s.params.txBufferSize →
    ∃ t, exec (.copyEnqueue type length data) s = .next t ∧
      t.txCell 2 = some length ∧ t.txCell 3 = some type ∧ t.txCell 4 = some (length ^^^ type ^^^ 0xFF) ∧
      (∀ j, j < length.toNat → t.txCell (5 + j) = data[j]?) ∧
      (∀ a, (a < 2 ∨ 5 + length.toNat ≤ a) → t.txCell a = s.txCell a) ∧
      t = { s with txFrame := t.txFrame, txStatus := .occupied, main := .idle, hostRes := some 0x0100
                   obs := .result (.copyEnqueue type length data) 0x0100 :: s.obs }

/-- R93: WRITE_TXP inside the payload area writes that one cell and returns DONE, whatever TX_STATUS; while OCCUPIED it
sets M_TXWRITE, and no other MISUSE bit changes. -/
def Obligations.WriteTxpWritesOneCell : Prop :=
  ∀ (index value : Byte) (s : State), index.toNat < s.params.txBufferSize →
    ∃ t, exec (.writeTxp index value) s = .next t ∧
      t.txCell (5 + index.toNat) = some value ∧
      (∀ a, a ≠ 5 + index.toNat → t.txCell a = s.txCell a) ∧
      t.misuse = (if s.txStatus = .occupied then s.misuse ||| 0x08 else s.misuse) ∧
      t = { s with txFrame := t.txFrame, misuse := t.misuse, main := .idle, hostRes := some 0x0000
                   obs := .result (.writeTxp index value) 0x0000
                     :: ((if t.misuse = s.misuse then [] else [.misuse t.misuse]) ++ s.obs) }

/-- R144: a bad index of READ_RXP or WRITE_TXP touches no cell, sets M_RANGE only and returns BADINDEX with the
index. -/
def Obligations.BadIndexTouchesNoCell : Prop :=
  ∀ (index value : Byte) (s : State) (i : Instr),
    (i = .readRxp index ∧ s.params.rxBufferSize ≤ index.toNat ∨
      i = .writeTxp index value ∧ s.params.txBufferSize ≤ index.toNat) →
    exec i s = .next { s with
      misuse := s.misuse ||| 0x02, main := .idle, hostRes := some (0xFE#8 ++ index)
      obs := .result i (0xFE#8 ++ index)
        :: ((if s.misuse ||| 0x02 = s.misuse then [] else [.misuse (s.misuse ||| 0x02)]) ++ s.obs) }

/-! ## The receive side -/

/-- R94: POLL returns the STATUS of rx[RX_OUT] and writes nothing. -/
def Obligations.PollReturnsOutSlotStatus : Prop :=
  ∀ (s : State),
    ((s.rxSlot s.rxOut).status = .free → exec .poll s = .next { s with
      main := .idle, hostRes := some 0x0200, obs := .result .poll 0x0200 :: s.obs }) ∧
    ((s.rxSlot s.rxOut).status = .complete → exec .poll s = .next { s with
      main := .idle, hostRes := some 0x0201, obs := .result .poll 0x0201 :: s.obs })

/-- R95, R96, R97: GET_LEN, GET_TYPE and READ_RXP return the byte of rx[RX_OUT] at offset 0, 1 and 3 + A, and write
nothing; a FREE slot gives the stale byte. -/
def Obligations.AccessorsReturnOutSlotBytes : Prop :=
  ∀ (s : State) (b : Byte) (i : Instr) (off : Nat),
    (i = .getLen ∧ off = 0 ∨ i = .getType ∧ off = 1 ∨
      ∃ A : Byte, i = .readRxp A ∧ A.toNat < s.params.rxBufferSize ∧ off = 3 + A.toNat) →
    s.rxCell s.rxOut off = some b →
    exec i s = .next { s with
      main := .idle, hostRes := some (0x03#8 ++ b), obs := .result i (0x03#8 ++ b) :: s.obs }

/-- R55, D13, D14: the accessors on an UNSPEC cell still run: the byte is the next draw, whatever it is, one draw is
used up and the cell stays UNSPEC. -/
def Obligations.AccessorsOnUnspecCellDraw : Prop :=
  ∀ (s : State) (i : Instr) (off : Nat),
    (i = .getLen ∧ off = 0 ∨ i = .getType ∧ off = 1 ∨
      ∃ A : Byte, i = .readRxp A ∧ A.toNat < s.params.rxBufferSize ∧ off = 3 + A.toNat) →
    s.rxCell s.rxOut off = none →
    ∃ b : Byte, b = s.drawCell.1 ∧ exec i s = .next { s with
      draws := s.draws + 1
      main := .idle, hostRes := some (0x03#8 ++ b), obs := .result i (0x03#8 ++ b) :: s.obs }

/-- RELEASE m1 (R98): rx[RX_OUT] becomes FREE; if it was not COMPLETE, M_RELEASE is recorded. No cell changes and the
other slot is untouched. That `exec` starts RELEASE at a position of MAIN inside another operation is the model's
choice; no step does so (log entry 7). -/
def Obligations.ReleaseFreesOutSlot : Prop :=
  ∀ (s : State), s.main ≠ .releaseToggle →
    ∃ t, exec .release s = .next t ∧
      t.rxSlot s.rxOut = { s.rxSlot s.rxOut with status := .free } ∧
      t.rxSlot (s.rxOut ^^^ 1) = s.rxSlot (s.rxOut ^^^ 1) ∧
      t.misuse = (if (s.rxSlot s.rxOut).status = .complete then s.misuse else s.misuse ||| 0x04) ∧
      t = { s with rx0 := t.rx0, rx1 := t.rx1, misuse := t.misuse, main := .releaseToggle
                   obs := (if t.misuse = s.misuse then [] else [.misuse t.misuse]) ++ s.obs }

/-- RELEASE m2 (R98): RX_OUT advances to the other slot, and DONE. -/
def Obligations.ReleaseAdvancesOutPointer : Prop :=
  ∀ (s : State), s.main = .releaseToggle → exec .release s = .next { s with
    rxOut := s.rxOut ^^^ 1, main := .idle, hostRes := some 0x0000, obs := .result .release 0x0000 :: s.obs }

/-! ## Illegal commands -/

/-- R143: an illegal command sets M_ILLEGAL, returns 0xFF00 and changes nothing else: no register, no cell, no IE
write, no SPI transfer. -/
def Obligations.IllegalCommandOnlyRecordsMisuse : Prop :=
  ∀ (s : State) (c : HostCmd) (rest : List Event), s.main = .idle → s.schedule = .issue c :: rest →
    illegalHost s.params.pollingBuild c = true →
    step s = exec (.illegal c.word c.data) { s with schedule := rest } ∧
    exec (.illegal c.word c.data) { s with schedule := rest } = .next { s with
      schedule := rest, misuse := s.misuse ||| 0x01, main := .idle, hostRes := some 0xFF00
      obs := .result (.illegal c.word c.data) 0xFF00
        :: ((if s.misuse ||| 0x01 = s.misuse then [] else [.misuse (s.misuse ||| 0x01)]) ++ s.obs) }

/-! ## The interrupt handler -/

/-- R7, R30, R101: agent IRQ does not step while IE = 0, nor in a polling build. That its turn then passes without
effect is the model's choice (log entry 21). -/
def Obligations.MaskedInterruptDoesNotStep : Prop :=
  ∀ (s : State), (s.ie = false ∨ s.params.pollingBuild = true) → exec .irqEvent s = .next s

/-- R105: with FFIT = 0 the invocation reads the status, runs AuxHandler and ends; no link-control register changes. What
the prologue of every invocation does: with both AUX flags 0 the status is read and nothing else is sent, and AUX_STATE
is unchanged (R42, R104); no word AuxHandler sends is a STATUS_READ, FIFO_READ, TX_WRITE, FIFO_CLEAR, FIFO_ACCEPT or
XCVR_RESET word (R104, R137); and with an AUX flag set, AuxHandler on the status word and the value of AUX_STATE gives the
new value and the words sent, but the forbidden ones (R104). That forbidden words are dropped and that plain data stand
for AUX_STATE is the model's choice (log entry 9); that the forbidden words are these six is log entry 15. -/
def Obligations.NoFifoFlagTouchesNoFrameState : Prop :=
  ∀ (s : State),
    (ffit s.params (statusAnswerOf s) = false → HandlerGives s (prologueState s)) ∧
    (s.params.auxWakeup = false → s.params.auxLowbat = false → prologueState s = { s with
      statusAnswers := s.statusAnswers.tail, draws := s.draws + 1
      obs := .spi .statusRead s.params.spi.statusRead (some (statusAnswerOf s)) :: s.obs }) ∧
    (∀ w ∈ (auxResultOf s).1,
      w ≠ s.params.spi.statusRead ∧ w ≠ s.params.spi.fifoRead ∧ (∀ b : Byte, w ≠ s.params.spi.txWriteHi ++ b) ∧
      w ≠ s.params.spi.fifoClear ∧ w ≠ s.params.spi.fifoAccept ∧ w ≠ s.params.spi.xcvrReset) ∧
    (s.params.auxWakeup = true ∨ s.params.auxLowbat = true →
      let h := Config.auxHandler (statusAnswerOf s) s.auxState.value
      (prologueState s).auxState.value = h.2 ∧ (auxResultOf s).1 = h.1.filter (fun w => !s.params.spi.reserved w))

/-- R107: in RX_IDLE with rx[RX_IN] FREE, the length byte is accepted. -/
def Obligations.IdleAcceptsLengthByte : Prop :=
  ∀ (s : State), ffit s.params (statusAnswerOf s) = true → s.linkState = .rxIdle →
    (s.rxSlot s.rxIn).status = .free →
    ∃ t, HandlerGives s t ∧
      t.rxCell s.rxIn 0 = some (fifoAnswerOf s) ∧
      (∀ i a, (i ≠ s.rxIn ∨ a ≠ 0) → t.rxCell i a = s.rxCell i a) ∧
      (∀ i, (t.rxSlot i).status = (s.rxSlot i).status) ∧
      t = { prologueState s with
        fifoAnswers := s.fifoAnswers.tail, draws := s.draws + 2, rx0 := t.rx0, rx1 := t.rx1
        totalBytes := (fifoAnswerOf s).zeroExtend 16 + 3, rxChecksum := fifoAnswerOf s, byteCount := 1
        linkState := .rxActive, obs := fifoReadObs s (fifoAnswerOf s) :: (prologueState s).obs }

/-- R107: in RX_IDLE with rx[RX_IN] COMPLETE, the frame is dropped: the length byte is consumed, TOTAL_BYTES is
written, the FIFO is reset, no slot is touched. -/
def Obligations.IdleDropsWhenNoFreeSlot : Prop :=
  ∀ (s : State), ffit s.params (statusAnswerOf s) = true → s.linkState = .rxIdle →
    (s.rxSlot s.rxIn).status = .complete →
    HandlerGives s { prologueState s with
      fifoAnswers := s.fifoAnswers.tail, draws := s.draws + 2
      totalBytes := (fifoAnswerOf s).zeroExtend 16 + 3
      obs := fifoResetObs s.params ++ fifoReadObs s (fifoAnswerOf s) :: (prologueState s).obs }

/-- R108 to R111: in RX_ACTIVE, a byte that neither fails the header check nor ends the frame. -/
def Obligations.ActiveReceptionContinues : Prop :=
  ∀ (s : State), ffit s.params (statusAnswerOf s) = true → s.linkState = .rxActive →
    (s.byteCount = 2 → s.rxChecksum ^^^ fifoAnswerOf s = 0xFF) →
    s.byteCount.toNat + 1 < s.totalBytes.toNat →
    ∃ t, HandlerGives s t ∧ StoredBounded s t ∧ (∀ i, (t.rxSlot i).status = (s.rxSlot i).status) ∧
      t = { prologueState s with
        fifoAnswers := s.fifoAnswers.tail, draws := s.draws + 2, rx0 := t.rx0, rx1 := t.rx1
        rxChecksum := s.rxChecksum ^^^ fifoAnswerOf s, byteCount := s.byteCount + 1
        obs := fifoReadObs s (fifoAnswerOf s) :: (prologueState s).obs }

/-- R110: a header whose checksum is wrong at index 2 is abandoned: RX_IDLE, FIFO reset, no slot COMPLETE, RX_IN
unchanged; the checksum byte stays in the slot (R109). -/
def Obligations.BadHeaderChecksumAborts : Prop :=
  ∀ (s : State), ffit s.params (statusAnswerOf s) = true → s.linkState = .rxActive →
    s.byteCount = 2 → s.rxChecksum ^^^ fifoAnswerOf s ≠ 0xFF →
    ∃ t, HandlerGives s t ∧ StoredBounded s t ∧ (∀ i, (t.rxSlot i).status = (s.rxSlot i).status) ∧
      t = { prologueState s with
        fifoAnswers := s.fifoAnswers.tail, draws := s.draws + 2, rx0 := t.rx0, rx1 := t.rx1
        rxChecksum := s.rxChecksum ^^^ fifoAnswerOf s, linkState := .rxIdle
        obs := fifoResetObs s.params ++ fifoReadObs s (fifoAnswerOf s) :: (prologueState s).obs }

/-- R112: the last byte completes the frame: rx[RX_IN] COMPLETE, RX_IN to the other slot, RX_IDLE, FIFO reset. -/
def Obligations.LastByteCompletesFrame : Prop :=
  ∀ (s : State), ffit s.params (statusAnswerOf s) = true → s.linkState = .rxActive →
    (s.byteCount = 2 → s.rxChecksum ^^^ fifoAnswerOf s = 0xFF) →
    s.byteCount.toNat + 1 = s.totalBytes.toNat →
    ∃ t, HandlerGives s t ∧ StoredBounded s t ∧ (t.rxSlot s.rxIn).status = .complete ∧
      (t.rxSlot (s.rxIn ^^^ 1)).status = (s.rxSlot (s.rxIn ^^^ 1)).status ∧
      t = { prologueState s with
        fifoAnswers := s.fifoAnswers.tail, draws := s.draws + 2, rx0 := t.rx0, rx1 := t.rx1
        rxChecksum := s.rxChecksum ^^^ fifoAnswerOf s, byteCount := s.byteCount + 1, rxIn := s.rxIn ^^^ 1
        linkState := .rxIdle
        obs := fifoResetObs s.params ++ fifoReadObs s (fifoAnswerOf s) :: (prologueState s).obs }

/-- R113: in TX with bytes left, byte BYTE_COUNT of the frame goes out and BYTE_COUNT advances. An UNSPEC cell goes out
as a draw, which uses one draw up. -/
def Obligations.TransmitSendsNextFrameByte : Prop :=
  ∀ (s : State), ffit s.params (statusAnswerOf s) = true → s.linkState = .tx →
    s.byteCount.toNat < s.totalBytes.toNat →
    s.byteCount.toNat < s.params.txOverhead + s.params.txBufferSize →
    ∃ b : Byte, (∀ c, s.txCell s.byteCount.toNat = some c → b = c) ∧
      HandlerGives s { prologueState s with
        draws := if (s.txCell s.byteCount.toNat).isSome then s.draws + 1 else s.draws + 2
        byteCount := s.byteCount + 1
        obs := .spi (.txWrite b) (s.params.spi.txWriteHi ++ b) none :: (prologueState s).obs }

/-- R114: in TX with no byte left, the slot is freed, PWR_RECEIVE and TX_WRITE(DUMMY) go out in that order, then the
epilogue. -/
def Obligations.TransmitEndFreesSlot : Prop :=
  ∀ (s : State), ffit s.params (statusAnswerOf s) = true → s.linkState = .tx →
    s.byteCount = s.totalBytes →
    HandlerGives s { prologueState s with
      txStatus := .free, linkState := .rxIdle
      obs := fifoResetObs s.params
        ++ .spi (.txWrite s.params.dummy) (s.params.spi.txWriteHi ++ s.params.dummy) none
        :: .spi (.pwrReceive s.params.ewb) (pwrReceiveWord s.params.spi s.params.ewb) none
        :: (prologueState s).obs }

/-! ## The tick scheduler -/

/-- T0 (R118): busy resets FREE_COUNT and returns with no SPI transfer; RX_IDLE goes on to T1. -/
def Obligations.TickBusyCheck : Prop :=
  ∀ (s : State), s.main = .idle →
    (s.linkState ≠ .rxIdle → exec .tick s = .next { s with
      freeCount := s.params.channelFreeTime, main := .idle, hostRes := some 0x0000
      obs := .result .tick 0x0000 :: s.obs }) ∧
    (s.linkState = .rxIdle → exec .tick s = .next { s with main := .tickSample })

/-- T1 (R119): one STATUS_READ with IE off and on again as one step; IE is 1 after it even if it was 0 before. -/
def Obligations.TickSamplesCarrierMasked : Prop :=
  ∀ (s : State), s.main = .tickSample → exec .tick s = .next { s with
    ie := true, statusAnswers := s.statusAnswers.tail, draws := s.draws + 1, main := .tickDecide (statusAnswerOf s)
    obs := .ie true :: .spi .statusRead s.params.spi.statusRead (some (statusAnswerOf s))
      :: ((if s.ie then [.ie false] else []) ++ s.obs) }

/-- T2 (R120 to R122): a carrier resets FREE_COUNT; otherwise it counts down and saturates at 0; TICK goes on to T3 only
with FREE_COUNT 0 and a frame waiting. -/
def Obligations.TickCountsClearSamples : Prop :=
  ∀ (s : State) (S : Word16), s.main = .tickDecide S →
    (rssi s.params S = true → exec .tick s = .next { s with
      freeCount := s.params.channelFreeTime, main := .idle, hostRes := some 0x0000
      obs := .result .tick 0x0000 :: s.obs }) ∧
    (rssi s.params S = false → ∃ n : Byte, n.toNat = s.freeCount.toNat - 1 ∧
      (n = 0 ∧ s.txStatus = .occupied → exec .tick s = .next { s with freeCount := n, main := .tickStart }) ∧
      (n ≠ 0 ∨ s.txStatus = .free → exec .tick s = .next { s with
        freeCount := n, main := .idle, hostRes := some 0x0000, obs := .result .tick 0x0000 :: s.obs }))

/-- T3 with the recheck (R123, R169): a reception that began after T0 wins; FREE_COUNT is reset and nothing goes out. -/
def Obligations.TickRecheckYieldsToReception : Prop :=
  ∀ (s : State), s.main = .tickStart → s.params.tickRecheck = true → s.linkState ≠ .rxIdle →
    exec .tick s = .next { s with
      freeCount := s.params.channelFreeTime, ie := true, main := .idle, hostRes := some 0x0000
      obs := .result .tick 0x0000 :: .ie true :: ((if s.ie then [.ie false] else []) ++ s.obs) }

/-- T3, the start (R123): PWR_STANDBY, TX_WRITE(PREAMBLE) twice, PWR_TRANSMIT; TOTAL_BYTES = tx.LEN + TX_OVERHEAD
exactly, BYTE_COUNT = 0, LINK_STATE = TX, in one critical section. Without the recheck it happens whatever LINK_STATE
is. Where tx.LEN is UNSPEC, which no run reaches (R49), the length is a draw. -/
def Obligations.TickStartsTransmission : Prop :=
  ∀ (s : State), s.main = .tickStart → (s.params.tickRecheck = true → s.linkState = .rxIdle) →
    ∃ (l : Byte) (t : State), (∀ c, s.txCell 2 = some c → l = c) ∧ exec .tick s = .next t ∧
      t.totalBytes.toNat = l.toNat + (if s.params.trailingByte then 6 else 5) ∧
      t = { s with
        draws := if (s.txCell 2).isSome then s.draws else s.draws + 1
        totalBytes := t.totalBytes, byteCount := 0, linkState := .tx, ie := true, main := .idle, hostRes := some 0x0000
        obs := .result .tick 0x0000 :: .ie true
          :: .spi (.pwrTransmit s.params.ewb) (pwrTransmitWord s.params.spi s.params.ewb) none
          :: .spi (.txWrite s.params.preamble) (s.params.spi.txWriteHi ++ s.params.preamble) none
          :: .spi (.txWrite s.params.preamble) (s.params.spi.txWriteHi ++ s.params.preamble) none
          :: .spi (.pwrStandby s.params.ewb) (pwrStandbyWord s.params.spi s.params.ewb) none
          :: ((if s.ie then [.ie false] else []) ++ s.obs) }

/-- R124: `k` clear idle ticks, fewer than FREE_COUNT and with no interrupt between, count FREE_COUNT down by `k` and
start nothing, whether or not a frame is waiting. -/
def Obligations.DebounceHoldsTransmissionBack : Prop :=
  ∀ (k : Nat) (s : State), s.main = .idle → s.linkState = .rxIdle → k < s.freeCount.toNat →
    s.schedule = List.replicate k (.issue tickCmd) →
    k ≤ s.statusAnswers.length → (∀ S ∈ s.statusAnswers.take k, rssi s.params S = false) →
    ∃ t, Host.Core.run core (3 * k) s = .next t ∧ t.linkState = .rxIdle ∧ t.main = .idle ∧
      t.freeCount.toNat = s.freeCount.toNat - k ∧ t.txStatus = s.txStatus ∧ sentBytes t.obs = sentBytes s.obs

/-! ## The transceiver commands -/

/-- R126, R128 to R135: whatever raw word decodes to a transceiver command, running the command puts exactly that word
on the SPI port, as one transfer. A response-bearing command takes its answer and stores it nowhere; nothing else
changes. That a command runs by itself is the model's choice (log entry 5). -/
def Obligations.TransferPutsTheWordOnThePort : Prop :=
  ∀ (s : State) (w : Word16) (i : Instr), decodeSpi s.params.spi s.params.ewb w = .ok i →
    (i = .statusRead → exec i s = .next { s with
      statusAnswers := s.statusAnswers.tail, draws := s.draws + 1
      obs := .spi i w (some (statusAnswerOf s)) :: s.obs }) ∧
    (i = .fifoRead → ∃ d : Byte, d = s.fifoAnswers.headD (Config.fifoAnswer s.draws) ∧ exec i s = .next { s with
      fifoAnswers := s.fifoAnswers.tail, draws := s.draws + 1, obs := .spi i w (some (d.zeroExtend 16)) :: s.obs }) ∧
    (i ≠ .statusRead → i ≠ .fifoRead → exec i s = .next { s with obs := .spi i w none :: s.obs })

/-- R17, R136, R137: CONFIG_SEQ and AUX_WORDS send the elements of their list in order and change nothing else. That the
lists go out by themselves is the model's choice (log entry 5). -/
def Obligations.SequencesGoOutInOrder : Prop :=
  ∀ (s : State) (ws : List Word16),
    exec .configSeq s = .next { s with obs := seqObs .configSeq s.params.configSeq ++ s.obs } ∧
    exec (.auxWords ws) s = .next { s with obs := seqObs (.auxWords ws) (ws.map .word) ++ s.obs }

/-! ## Reset -/

/-- R50, R161: the power-on value of every piece of state, in any build; of AUX_STATE, the value that its plain data stand
for (log entry 9). -/
def Obligations.PowerOnValues : Prop :=
  ∀ (p : Params), let s := State.powerOn p
    s.linkState = .rxIdle ∧ s.ie = false ∧ s.txStatus = .free ∧ s.byteCount = 0 ∧ s.totalBytes = 0 ∧
    s.rxChecksum = 0 ∧ s.rxIn = 0 ∧ s.rxOut = 0 ∧ s.freeCount = p.channelFreeTime ∧
    s.rx0.status = .free ∧ s.rx1.status = .free ∧ (∀ i a, s.rxCell i a = none) ∧
    s.txCell 0 = some p.sync0 ∧ s.txCell 1 = some p.sync1 ∧ (∀ a, 2 ≤ a → s.txCell a = none) ∧
    s.misuse = 0 ∧ s.auxState.value = Config.auxInit ∧ s.main = .idle

/-- The parameters at reset are legal (R10, R11), and reset is a power-on state that meets every invariant. The opaque
values that stand for OPEN parameters are the model's choice (log entry 1). -/
def Obligations.ResetMeetsInvariants : Prop :=
  resetParams.wf = true ∧ State.reset = State.powerOn resetParams ∧
    LinkInv State.reset ∧ RingInv State.reset ∧ MemInv State.reset ∧
    State.reset.freeCount.toNat ≤ State.reset.params.channelFreeTime.toNat ∧ State.reset.misuse &&& 0xF0 = 0

/-! ## Invariants of every step -/

/-- R45 to R47, R49: the link invariant is kept by every step, from every state that meets it. -/
def Obligations.StepKeepsLinkInvariant : Prop :=
  ∀ (s t : State), LinkInv s → step s = .next t → LinkInv t

/-- R48: the ring invariant is kept by every step, also across the two micro-steps of RELEASE. -/
def Obligations.StepKeepsRingInvariant : Prop :=
  ∀ (s t : State), LinkInv s → RingInv s → step s = .next t → RingInv t

/-- R52, R53: the buffer spaces stay in canonical form, and only cells that exist are ever written. -/
def Obligations.StepKeepsMemoryCanonical : Prop :=
  ∀ (s t : State), MemInv s → step s = .next t → MemInv t

/-- R37: FREE_COUNT never exceeds CHANNEL_FREE_TIME. -/
def Obligations.StepKeepsFreeCountBounded : Prop :=
  ∀ (s t : State), s.freeCount.toNat ≤ s.params.channelFreeTime.toNat → step s = .next t →
    t.freeCount.toNat ≤ t.params.channelFreeTime.toNat

/-- R41: no step clears a MISUSE bit, bits 7..4 stay 0, and one step sets at most one bit (R147). -/
def Obligations.MisuseBitsAreSticky : Prop :=
  ∀ (s t : State), step s = .next t →
    t.misuse &&& s.misuse = s.misuse ∧ (s.misuse &&& 0xF0 = 0 → t.misuse &&& 0xF0 = 0) ∧
    (t.misuse = s.misuse ∨ ∃ k : Fin 4, t.misuse = s.misuse ||| (1#8 <<< k.val))

/-- R27: no step writes a parameter. -/
def Obligations.ParametersNeverChange : Prop :=
  ∀ (s t : State), step s = .next t → t.params = s.params

/-- R176: once IE is 1, it is 0 again only inside the bodies of INIT and SW_RESET. -/
def Obligations.InterruptOffOnlyInsideInitOrSwReset : Prop :=
  ∀ (s t : State), (s.ie = true ∨ insideMasked s.main = true) → step s = .next t →
    (t.ie = true ∨ insideMasked t.main = true)

/-! ## Whole-machine rules -/

/-- R54, R141: in a state of the link invariant no step stops, unless the environment puts on the SPI port a word that
is no command (log entries 5, 11). -/
def Obligations.StepNeverStops : Prop :=
  ∀ (s : State), LinkInv s →
    (∀ w rest, s.schedule = .spi w :: rest → ∃ i, decodeSpi s.params.spi s.params.ewb w = .ok i) → Goes (step s)

/-- From power-on, in every build and every environment of host commands, interrupts and transceiver answers, a run of
any length goes on and every state of it meets R45 to R49. -/
def Obligations.EveryRunGoesOnWithinTheInvariants : Prop :=
  ∀ (p : Params) (schedule : List Event) (status : List Word16) (fifo : List Byte) (draws n : Nat),
    linkOnly schedule = true →
    ∃ t, Host.Core.run core n ((State.powerOn p).withEnvironment schedule status fifo draws) = .next t ∧
      LinkInv t ∧ RingInv t

/-- R46, R67 (DOC §8, double-buffer non-interference): no step writes a cell of a COMPLETE slot. -/
def Obligations.CompleteSlotIsNeverWritten : Prop :=
  ∀ (s t : State) (i : BitVec 1), LinkInv s → (s.rxSlot i).status = .complete → step s = .next t →
    ∀ a, t.rxCell i a = s.rxCell i a

/-- R39: a COMPLETE slot becomes FREE only by RELEASE on rx[RX_OUT] or by INIT, and a FREE slot COMPLETE only by the
handler on rx[RX_IN]. -/
def Obligations.SlotStatusChangesOnlyAsGiven : Prop :=
  ∀ (s t : State) (i : BitVec 1), step s = .next t →
    ((s.rxSlot i).status = .complete → (t.rxSlot i).status = .free →
      s.main = .initBody ∨ (i = s.rxOut ∧ t.main = .releaseToggle)) ∧
    ((s.rxSlot i).status = .free → (t.rxSlot i).status = .complete →
      i = s.rxIn ∧ s.linkState = .rxActive ∧ t.rxIn = s.rxIn ^^^ 1)

/-- R31, R91 (DOC §8, at most one transmission in flight): while a frame stays queued and M_TXWRITE is not set, no step
alters any cell of the transmit frame. -/
def Obligations.QueuedFrameIsNotAltered : Prop :=
  ∀ (s t : State), s.txStatus = .occupied → step s = .next t → t.misuse &&& 0x08 = 0 →
    ∀ a, t.txCell a = s.txCell a

/-- R29, R122, R124: LINK_STATE becomes TX only in TICK's T3, with FREE_COUNT 0 and a frame waiting. -/
def Obligations.TransmissionStartsOnlyInTick : Prop :=
  ∀ (s t : State), LinkInv s → step s = .next t → s.linkState ≠ .tx → t.linkState = .tx →
    s.main = .tickStart ∧ s.freeCount = 0 ∧ s.txStatus = .occupied ∧ t.byteCount = 0

/-- R146: a step that returns a result returns one of the words of the table. -/
def Obligations.ResultsAreFromTheTable : Prop :=
  ∀ (s t : State), step s = .next t → t.hostRes = s.hostRes ∨
    ∃ r : Word16, t.hostRes = some r ∧
      (r = 0x0000 ∨ r = 0x0100 ∨ r = 0x0101 ∨ r = 0x0102 ∨ r = 0x0200 ∨ r = 0x0201 ∨ r = 0xFF00 ∨
        r.extractLsb' 8 8 = 0x03 ∨ r.extractLsb' 8 8 = 0xFE)

/-! ## Whole frames -/

/-- R107 to R112, R181: in a build that takes interrupts, L + 3 handler invocations with FFIT = 1, whatever MAIN is in
the middle of, take a frame with a good header from RX_IDLE into rx[RX_IN]: COMPLETE, with its length, type, checksum
and as much payload as the slot holds; the other slot is untouched. -/
def Obligations.ReceptionStoresWholeFrame : Prop :=
  ∀ (s : State) (type : Byte) (d : List Byte), d.length ≤ 255 →
    s.ie = true → s.params.pollingBuild = false → s.linkState = .rxIdle → (s.rxSlot s.rxIn).status = .free →
    s.schedule = List.replicate (d.length + 3) .irq →
    d.length + 3 ≤ s.statusAnswers.length → (∀ S ∈ s.statusAnswers.take (d.length + 3), ffit s.params S = true) →
    s.fifoAnswers = BitVec.ofNat 8 d.length :: type :: (BitVec.ofNat 8 d.length ^^^ type ^^^ 0xFF) :: d →
    ∃ t, Host.Core.run core (d.length + 3) s = .next t ∧
      t.linkState = .rxIdle ∧ (t.rxSlot s.rxIn).status = .complete ∧ t.rxIn = s.rxIn ^^^ 1 ∧
      t.rxCell s.rxIn 0 = some (BitVec.ofNat 8 d.length) ∧ t.rxCell s.rxIn 1 = some type ∧
      t.rxCell s.rxIn 2 = some (BitVec.ofNat 8 d.length ^^^ type ^^^ 0xFF) ∧
      (∀ j, j < d.length → j < s.params.rxBufferSize → t.rxCell s.rxIn (3 + j) = d[j]?) ∧
      t.rxSlot (s.rxIn ^^^ 1) = s.rxSlot (s.rxIn ^^^ 1) ∧ t.rxOut = s.rxOut ∧ t.txStatus = s.txStatus

/-- R110, R148: three invocations on a header whose checksum byte is wrong abandon the frame: RX_IDLE again, no slot
status changed, RX_IN unchanged, the other slot untouched. -/
def Obligations.CorruptHeaderAbandonsFrame : Prop :=
  ∀ (s : State) (l type c : Byte) (S0 S1 S2 : Word16), c ≠ l ^^^ type ^^^ 0xFF →
    s.ie = true → s.params.pollingBuild = false → s.linkState = .rxIdle → (s.rxSlot s.rxIn).status = .free →
    s.schedule = [.irq, .irq, .irq] → s.statusAnswers = [S0, S1, S2] →
    ffit s.params S0 = true → ffit s.params S1 = true → ffit s.params S2 = true → s.fifoAnswers = [l, type, c] →
    ∃ t, Host.Core.run core 3 s = .next t ∧ t.linkState = .rxIdle ∧ t.rxIn = s.rxIn ∧
      (∀ i, (t.rxSlot i).status = (s.rxSlot i).status) ∧ t.rxSlot (s.rxIn ^^^ 1) = s.rxSlot (s.rxIn ^^^ 1)

/-- R87, R113, R114, R181: in a build that takes interrupts, from the start of a transmission of a frame whose cells
are all written, TOTAL_BYTES + 1 handler invocations with FFIT = 1 send the bytes of TXFRAME in order and then DUMMY,
free the slot and return to RX_IDLE. -/
def Obligations.TransmissionSendsWholeFrame : Prop :=
  ∀ (s : State) (frame : List Byte), s.ie = true → s.params.pollingBuild = false → s.linkState = .tx →
    s.byteCount = 0 → s.totalBytes.toNat = frame.length →
    frame.length ≤ s.params.txOverhead + s.params.txBufferSize →
    (∀ k, k < frame.length → s.txCell k = frame[k]?) →
    s.schedule = List.replicate (frame.length + 1) .irq →
    frame.length + 1 ≤ s.statusAnswers.length →
    (∀ S ∈ s.statusAnswers.take (frame.length + 1), ffit s.params S = true) →
    ∃ t, Host.Core.run core (frame.length + 1) s = .next t ∧
      sentBytes t.obs = sentBytes s.obs ++ frame ++ [s.params.dummy] ∧
      t.linkState = .rxIdle ∧ t.txStatus = .free ∧ t.byteCount = s.totalBytes

/-- R117 to R123: one whole TICK with no interrupt inside, in RX_IDLE with a clear channel, FREE_COUNT at most 1 and a
frame waiting, starts the transmission; the two preamble bytes are what it sends. -/
def Obligations.ClearTickStartsWaitingFrame : Prop :=
  ∀ (s : State) (l : Byte), s.main = .idle → s.linkState = .rxIdle → s.schedule = [.issue tickCmd] →
    s.txStatus = .occupied → s.txCell 2 = some l → s.freeCount.toNat ≤ 1 → rssi s.params (statusAnswerOf s) = false →
    ∃ t, Host.Core.run core 4 s = .next t ∧ t.linkState = .tx ∧ t.byteCount = 0 ∧
      t.totalBytes.toNat = l.toNat + (if s.params.trailingByte then 6 else 5) ∧ t.freeCount = 0 ∧ t.ie = true ∧
      t.main = .idle ∧ t.hostRes = some 0x0000 ∧ t.txStatus = .occupied ∧
      sentBytes t.obs = sentBytes s.obs ++ [s.params.preamble, s.params.preamble]
end

