-- ==== Sys2Proof/Laws/Decode.lean ====
section
/-! SUPPORT. The fields of a host command word and of a TX_WRITE word: taking apart what the encoder puts together, and
putting together what the decoder takes apart (spec/30_encoding.md R75, R83). -/

namespace Sys2Proof

/-- An OP field is one of sixteen values. -/
theorem hostOp_cases (op : BitVec 4) :
    op = 0#4 ∨ op = 1#4 ∨ op = 2#4 ∨ op = 3#4 ∨ op = 4#4 ∨ op = 5#4 ∨ op = 6#4 ∨ op = 7#4 ∨ op = 8#4 ∨ op = 9#4 ∨
      op = 10#4 ∨ op = 11#4 ∨ op = 12#4 ∨ op = 13#4 ∨ op = 14#4 ∨ op = 15#4 := by
  revert op; decide

/-- An EWB field is one of four values. -/
theorem ewb_cases (e : BitVec 2) : e = 0#2 ∨ e = 1#2 ∨ e = 2#2 ∨ e = 3#2 := by
  revert e; decide

theorem append_toNat {m n : Nat} (x : BitVec m) (y : BitVec n) : (x ++ y).toNat = x.toNat * 2 ^ n + y.toNat := by
  rw [BitVec.toNat_append, ← Nat.shiftLeft_add_eq_or_of_lt y.isLt, Nat.shiftLeft_eq]

theorem hostWord_toNat (op : BitVec 4) (a b : Byte) :
    (hostWord op a b).toNat = b.toNat * 65536 + a.toNat * 256 + op.toNat := by
  unfold hostWord
  simp only [append_toNat]
  simp
  omega

theorem extract_toNat {n : Nat} (w : BitVec n) (lo len : Nat) :
    (w.extractLsb' lo len).toNat = w.toNat / 2 ^ lo % 2 ^ len := by
  rw [BitVec.extractLsb'_toNat, Nat.shiftRight_eq_div_pow]

@[simp] theorem hostOp_hostWord (op : BitVec 4) (a b : Byte) : hostOp (hostWord op a b) = op := by
  have := op.isLt
  apply BitVec.eq_of_toNat_eq
  rw [hostOp, extract_toNat, hostWord_toNat]; omega

@[simp] theorem hostRsv0_hostWord (op : BitVec 4) (a b : Byte) : hostRsv0 (hostWord op a b) = 0#4 := by
  have := op.isLt
  apply BitVec.eq_of_toNat_eq
  rw [hostRsv0, extract_toNat, hostWord_toNat]; simp; omega

@[simp] theorem hostA_hostWord (op : BitVec 4) (a b : Byte) : hostA (hostWord op a b) = a := by
  have := op.isLt; have := a.isLt
  apply BitVec.eq_of_toNat_eq
  rw [hostA, extract_toNat, hostWord_toNat]; omega

@[simp] theorem hostB_hostWord (op : BitVec 4) (a b : Byte) : hostB (hostWord op a b) = b := by
  have := op.isLt; have := a.isLt; have := b.isLt
  apply BitVec.eq_of_toNat_eq
  rw [hostB, extract_toNat, hostWord_toNat]; omega

@[simp] theorem hostRsv1_hostWord (op : BitVec 4) (a b : Byte) : hostRsv1 (hostWord op a b) = 0#8 := by
  have := op.isLt; have := a.isLt; have := b.isLt
  apply BitVec.eq_of_toNat_eq
  rw [hostRsv1, extract_toNat, hostWord_toNat]; simp; omega

/-- A command word whose reserved fields are 0 is the word of its fields. -/
theorem hostWord_of_fields {w : Word32} (h0 : hostRsv0 w = 0#4) (h1 : hostRsv1 w = 0#8) :
    hostWord (hostOp w) (hostA w) (hostB w) = w := by
  have e0 := congrArg BitVec.toNat h0
  have e1 := congrArg BitVec.toNat h1
  have := w.isLt
  apply BitVec.eq_of_toNat_eq
  rw [hostWord_toNat]
  unfold hostOp hostA hostB
  unfold hostRsv0 at e0
  unfold hostRsv1 at e1
  simp only [extract_toNat] at *
  simp at e0 e1
  omega

/-- The high byte of a TX_WRITE word, and the byte it carries. -/
@[simp] theorem txWriteWord_hi (t : SpiWords) (b : Byte) : (txWriteWord t b).extractLsb' 8 8 = t.txWriteHi := by
  have := b.isLt; have := t.txWriteHi.isLt
  apply BitVec.eq_of_toNat_eq
  rw [extract_toNat, txWriteWord, append_toNat]; omega

@[simp] theorem txWriteWord_lo (t : SpiWords) (b : Byte) : (txWriteWord t b).extractLsb' 0 8 = b := by
  have := b.isLt
  apply BitVec.eq_of_toNat_eq
  rw [extract_toNat, txWriteWord, append_toNat]; omega

/-- A word with the high byte of TX_WRITE is the TX_WRITE word of its low byte. -/
theorem txWriteWord_of_hi {t : SpiWords} {w : Word16} (h : w.extractLsb' 8 8 = t.txWriteHi) :
    txWriteWord t (w.extractLsb' 0 8) = w := by
  have := w.isLt
  apply BitVec.eq_of_toNat_eq
  rw [txWriteWord, ← h, append_toNat, extract_toNat, extract_toNat]; omega

/-- What `matchEwb` finds has the word. -/
theorem matchEwb_sound {f : BitVec 2 → Word16} {w : Word16} {e : BitVec 2} (h : matchEwb f w = some e) : f e = w := by
  unfold matchEwb at h
  split at h
  · next hw => exact Option.some.inj h ▸ hw
  · split at h
    · next hw => exact Option.some.inj h ▸ hw
    · split at h
      · next hw => exact Option.some.inj h ▸ hw
      · split at h
        · next hw => exact Option.some.inj h ▸ hw
        · cases h

/-- Where no EWB value has the word, `matchEwb` finds none. -/
theorem matchEwb_none {f : BitVec 2 → Word16} {w : Word16} (h : ∀ e, f e ≠ w) : matchEwb f w = none := by
  simp [matchEwb, h]

/-- Where only `e` has the word, `matchEwb` finds it. -/
theorem matchEwb_unique {f : BitVec 2 → Word16} {e : BitVec 2} (h : ∀ e', f e' = f e → e' = e) :
    matchEwb f (f e) = some e := by
  cases hm : matchEwb f (f e) with
  | some e' => rw [h e' (matchEwb_sound hm)]
  | none =>
    simp only [matchEwb] at hm
    rcases ewb_cases e with he | he | he | he <;> subst he <;> simp at hm <;> (repeat' split at hm) <;> cases hm

/-- What a power word decodes to has the word. -/
theorem decodePower_sound {t : SpiWords} {e : BitVec 2} {w : Word16} {i : Instr} (h : decodePower t e w = some i) :
    ∃ e', (i = .pwrReceive e' ∧ pwrReceiveWord t e' = w) ∨ (i = .pwrStandby e' ∧ pwrStandbyWord t e' = w) ∨
      (i = .pwrTransmit e' ∧ pwrTransmitWord t e' = w) := by
  unfold decodePower decodeOtherPower at h
  split at h
  · next hw => exact ⟨e, .inl ⟨(Option.some.inj h).symm, hw.symm⟩⟩
  split at h
  · next hw => exact ⟨e, .inr (.inl ⟨(Option.some.inj h).symm, hw.symm⟩)⟩
  split at h
  · next hw => exact ⟨e, .inr (.inr ⟨(Option.some.inj h).symm, hw.symm⟩)⟩
  split at h
  · next e' hm => exact ⟨e', .inl ⟨(Option.some.inj h).symm, matchEwb_sound hm⟩⟩
  split at h
  · next e' hm => exact ⟨e', .inr (.inl ⟨(Option.some.inj h).symm, matchEwb_sound hm⟩)⟩
  split at h
  · next e' hm => exact ⟨e', .inr (.inr ⟨(Option.some.inj h).symm, matchEwb_sound hm⟩)⟩
  · cases h

end Sys2Proof
end

