-- ==== Sys2Proof/Laws/Memory.lean ====
section
/-! SUPPORT. The laws of one buffer space (spec/20_memory.md R55): a read after a write gives the value written, a
write leaves every other offset alone, and every memory operation keeps the canonical form and the bounds. -/

namespace Sys2Proof.Machine

@[simp] theorem Memory.byteAt_nil (k : Nat) : Memory.byteAt [] k = none := rfl

/-- A read after a write to the same offset. -/
@[simp] theorem Memory.byteAt_store_self (m : Memory) (k : Nat) (v : Byte) :
    (Memory.store m k v).byteAt k = some v := by
  induction m with
  | nil => simp [Memory.store, Memory.byteAt]
  | cons c m ih =>
    obtain ⟨a, b⟩ := c
    unfold Memory.store
    split
    · simp [Memory.byteAt]
    · split
      · simp [Memory.byteAt]
      · have : ¬ a = k := fun h => by simp_all
        simp [Memory.byteAt, this, ih]

/-- A write leaves every other offset alone. -/
theorem Memory.byteAt_store_of_ne (m : Memory) {k a : Nat} (v : Byte) (h : a ≠ k) :
    (Memory.store m k v).byteAt a = m.byteAt a := by
  induction m with
  | nil => simp [Memory.store, Memory.byteAt, Ne.symm h]
  | cons c m ih =>
    obtain ⟨x, b⟩ := c
    unfold Memory.store
    split
    · rw [Memory.byteAt, if_neg (Ne.symm h)]
    · split
      · next hk => subst hk; rw [Memory.byteAt, Memory.byteAt, if_neg (Ne.symm h), if_neg (Ne.symm h)]
      · rw [Memory.byteAt, Memory.byteAt, ih]

theorem Memory.byteAt_store (m : Memory) (k a : Nat) (v : Byte) :
    (Memory.store m k v).byteAt a = if a = k then some v else m.byteAt a := by
  split
  · next h => rw [h, Memory.byteAt_store_self]
  · next h => exact Memory.byteAt_store_of_ne m v h

/-- A write adds no cell but the one written. -/
theorem Memory.mem_store {m : Memory} {k : Nat} {v : Byte} {c : Host.Cell} (h : c ∈ Memory.store m k v) :
    c = (k, v) ∨ c ∈ m := by
  induction m with
  | nil => simpa [Memory.store] using h
  | cons x m ih =>
    obtain ⟨a, b⟩ := x
    unfold Memory.store at h
    split at h
    · simpa using h
    · split at h
      · rcases List.mem_cons.1 h with h | h
        · exact .inl h
        · exact .inr (List.mem_cons_of_mem _ h)
      · rcases List.mem_cons.1 h with h | h
        · exact .inr (h ▸ List.mem_cons_self)
        · exact (ih h).imp id (List.mem_cons_of_mem _)

/-- A write keeps the canonical form. -/
theorem Memory.wf_store {m : Memory} (h : m.wf) (k : Nat) (v : Byte) : (Memory.store m k v).wf := by
  induction m with
  | nil => simp [Memory.store, Memory.wf]
  | cons x m ih =>
    obtain ⟨a, b⟩ := x
    obtain ⟨hlt, hm⟩ := List.pairwise_cons.1 h
    unfold Memory.store
    split
    · next hk =>
      refine List.pairwise_cons.2 ⟨fun c hc => ?_, h⟩
      rcases List.mem_cons.1 hc with hc | hc
      · simpa [hc] using hk
      · exact hk.trans (hlt c hc)
    · split
      · next hk => subst hk; exact List.pairwise_cons.2 ⟨hlt, hm⟩
      · next h1 h2 =>
        refine List.pairwise_cons.2 ⟨fun c hc => ?_, ih hm⟩
        rcases Memory.mem_store hc with hc | hc
        · simp only [hc]; omega
        · exact hlt c hc

/-- A write inside the bounds keeps the bounds. -/
theorem Memory.within_store {m : Memory} {lo hi k : Nat} (h : m.within lo hi) (h1 : lo ≤ k) (h2 : k < hi) (v : Byte) :
    (Memory.store m k v).within lo hi := fun c hc => by
  rcases Memory.mem_store hc with hc | hc
  · subst hc; exact ⟨h1, h2⟩
  · exact h c hc

/-- What a read gives after a list of bytes was stored. -/
theorem Memory.byteAt_storeList (d : List Byte) (m : Memory) (k a : Nat) :
    (Memory.storeList m k d).byteAt a = if k ≤ a ∧ a < k + d.length then d[a - k]? else m.byteAt a := by
  induction d generalizing m k with
  | nil => simp [Memory.storeList]
  | cons v d ih =>
    rw [Memory.storeList, ih, Memory.byteAt_store]
    by_cases hak : a = k
    · subst hak
      rw [if_neg (by omega), if_pos rfl, if_pos (by simp)]
      simp
    · by_cases hr : k + 1 ≤ a ∧ a < k + 1 + d.length
      · rw [if_pos hr, if_pos (by simp; omega)]
        have : a - k = (a - (k + 1)) + 1 := by omega
        rw [this, List.getElem?_cons_succ]
      · rw [if_neg hr, if_neg hak, if_neg (by simp; omega)]

theorem Memory.wf_storeList {m : Memory} (h : m.wf) (k : Nat) (d : List Byte) : (Memory.storeList m k d).wf := by
  induction d generalizing m k with
  | nil => exact h
  | cons v d ih => exact ih (Memory.wf_store h k v) (k + 1)

theorem Memory.within_storeList {m : Memory} {lo hi k : Nat} (h : m.within lo hi) (h1 : lo ≤ k) (d : List Byte)
    (h2 : k + d.length ≤ hi) : (Memory.storeList m k d).within lo hi := by
  induction d generalizing m k with
  | nil => exact h
  | cons v d ih =>
    simp only [List.length_cons] at h2
    exact ih (Memory.within_store h h1 (by omega) v) (by omega) (by omega)

theorem Memory.within_nil (lo hi : Nat) : Memory.within [] lo hi := fun _ h => absurd h (by simp)

end Sys2Proof.Machine
end

