-- ==== Sys2Proof/Laws/State.lean ====
section
/-! SUPPORT. One lemma per field per state update, true by rfl, so that no later proof unfolds a record update. The
updates that test something (setIe, setMisuse, setRxSlot, …) are given as one record each in Laws/Ops.lean. -/

namespace Sys2Proof.Machine

/-! ### spi -/

@[simp] theorem State.spi_params (s : State) (cmd : Instr) (w : Word16) (a : Option Word16) :
    (s.spi cmd w a).params = s.params := rfl
@[simp] theorem State.spi_linkState (s : State) (cmd : Instr) (w : Word16) (a : Option Word16) :
    (s.spi cmd w a).linkState = s.linkState := rfl
@[simp] theorem State.spi_ie (s : State) (cmd : Instr) (w : Word16) (a : Option Word16) :
    (s.spi cmd w a).ie = s.ie := rfl
@[simp] theorem State.spi_txStatus (s : State) (cmd : Instr) (w : Word16) (a : Option Word16) :
    (s.spi cmd w a).txStatus = s.txStatus := rfl
@[simp] theorem State.spi_byteCount (s : State) (cmd : Instr) (w : Word16) (a : Option Word16) :
    (s.spi cmd w a).byteCount = s.byteCount := rfl
@[simp] theorem State.spi_totalBytes (s : State) (cmd : Instr) (w : Word16) (a : Option Word16) :
    (s.spi cmd w a).totalBytes = s.totalBytes := rfl
@[simp] theorem State.spi_rxChecksum (s : State) (cmd : Instr) (w : Word16) (a : Option Word16) :
    (s.spi cmd w a).rxChecksum = s.rxChecksum := rfl
@[simp] theorem State.spi_rxIn (s : State) (cmd : Instr) (w : Word16) (a : Option Word16) :
    (s.spi cmd w a).rxIn = s.rxIn := rfl
@[simp] theorem State.spi_rxOut (s : State) (cmd : Instr) (w : Word16) (a : Option Word16) :
    (s.spi cmd w a).rxOut = s.rxOut := rfl
@[simp] theorem State.spi_freeCount (s : State) (cmd : Instr) (w : Word16) (a : Option Word16) :
    (s.spi cmd w a).freeCount = s.freeCount := rfl
@[simp] theorem State.spi_rx0 (s : State) (cmd : Instr) (w : Word16) (a : Option Word16) :
    (s.spi cmd w a).rx0 = s.rx0 := rfl
@[simp] theorem State.spi_rx1 (s : State) (cmd : Instr) (w : Word16) (a : Option Word16) :
    (s.spi cmd w a).rx1 = s.rx1 := rfl
@[simp] theorem State.spi_txFrame (s : State) (cmd : Instr) (w : Word16) (a : Option Word16) :
    (s.spi cmd w a).txFrame = s.txFrame := rfl
@[simp] theorem State.spi_misuse (s : State) (cmd : Instr) (w : Word16) (a : Option Word16) :
    (s.spi cmd w a).misuse = s.misuse := rfl
@[simp] theorem State.spi_auxState (s : State) (cmd : Instr) (w : Word16) (a : Option Word16) :
    (s.spi cmd w a).auxState = s.auxState := rfl
@[simp] theorem State.spi_main (s : State) (cmd : Instr) (w : Word16) (a : Option Word16) :
    (s.spi cmd w a).main = s.main := rfl
@[simp] theorem State.spi_schedule (s : State) (cmd : Instr) (w : Word16) (a : Option Word16) :
    (s.spi cmd w a).schedule = s.schedule := rfl
@[simp] theorem State.spi_statusAnswers (s : State) (cmd : Instr) (w : Word16) (a : Option Word16) :
    (s.spi cmd w a).statusAnswers = s.statusAnswers := rfl
@[simp] theorem State.spi_fifoAnswers (s : State) (cmd : Instr) (w : Word16) (a : Option Word16) :
    (s.spi cmd w a).fifoAnswers = s.fifoAnswers := rfl
@[simp] theorem State.spi_draws (s : State) (cmd : Instr) (w : Word16) (a : Option Word16) :
    (s.spi cmd w a).draws = s.draws := rfl
@[simp] theorem State.spi_hostRes (s : State) (cmd : Instr) (w : Word16) (a : Option Word16) :
    (s.spi cmd w a).hostRes = s.hostRes := rfl
@[simp] theorem State.spi_obs (s : State) (cmd : Instr) (w : Word16) (a : Option Word16) :
    (s.spi cmd w a).obs = .spi cmd w a :: s.obs := rfl

/-! ### delay -/

@[simp] theorem State.delay_params (s : State) (ms : Nat) : (s.delay ms).params = s.params := rfl
@[simp] theorem State.delay_linkState (s : State) (ms : Nat) : (s.delay ms).linkState = s.linkState := rfl
@[simp] theorem State.delay_ie (s : State) (ms : Nat) : (s.delay ms).ie = s.ie := rfl
@[simp] theorem State.delay_txStatus (s : State) (ms : Nat) : (s.delay ms).txStatus = s.txStatus := rfl
@[simp] theorem State.delay_byteCount (s : State) (ms : Nat) : (s.delay ms).byteCount = s.byteCount := rfl
@[simp] theorem State.delay_totalBytes (s : State) (ms : Nat) : (s.delay ms).totalBytes = s.totalBytes := rfl
@[simp] theorem State.delay_rxChecksum (s : State) (ms : Nat) : (s.delay ms).rxChecksum = s.rxChecksum := rfl
@[simp] theorem State.delay_rxIn (s : State) (ms : Nat) : (s.delay ms).rxIn = s.rxIn := rfl
@[simp] theorem State.delay_rxOut (s : State) (ms : Nat) : (s.delay ms).rxOut = s.rxOut := rfl
@[simp] theorem State.delay_freeCount (s : State) (ms : Nat) : (s.delay ms).freeCount = s.freeCount := rfl
@[simp] theorem State.delay_rx0 (s : State) (ms : Nat) : (s.delay ms).rx0 = s.rx0 := rfl
@[simp] theorem State.delay_rx1 (s : State) (ms : Nat) : (s.delay ms).rx1 = s.rx1 := rfl
@[simp] theorem State.delay_txFrame (s : State) (ms : Nat) : (s.delay ms).txFrame = s.txFrame := rfl
@[simp] theorem State.delay_misuse (s : State) (ms : Nat) : (s.delay ms).misuse = s.misuse := rfl
@[simp] theorem State.delay_auxState (s : State) (ms : Nat) : (s.delay ms).auxState = s.auxState := rfl
@[simp] theorem State.delay_main (s : State) (ms : Nat) : (s.delay ms).main = s.main := rfl
@[simp] theorem State.delay_schedule (s : State) (ms : Nat) : (s.delay ms).schedule = s.schedule := rfl
@[simp] theorem State.delay_statusAnswers (s : State) (ms : Nat) : (s.delay ms).statusAnswers = s.statusAnswers := rfl
@[simp] theorem State.delay_fifoAnswers (s : State) (ms : Nat) : (s.delay ms).fifoAnswers = s.fifoAnswers := rfl
@[simp] theorem State.delay_draws (s : State) (ms : Nat) : (s.delay ms).draws = s.draws := rfl
@[simp] theorem State.delay_hostRes (s : State) (ms : Nat) : (s.delay ms).hostRes = s.hostRes := rfl
@[simp] theorem State.delay_obs (s : State) (ms : Nat) : (s.delay ms).obs = .delay ms :: s.obs := rfl

/-! ### finish -/

@[simp] theorem State.finish_params (s : State) (op : Instr) (r : Word16) : (s.finish op r).params = s.params := rfl
@[simp] theorem State.finish_linkState (s : State) (op : Instr) (r : Word16) :
    (s.finish op r).linkState = s.linkState := rfl
@[simp] theorem State.finish_ie (s : State) (op : Instr) (r : Word16) : (s.finish op r).ie = s.ie := rfl
@[simp] theorem State.finish_txStatus (s : State) (op : Instr) (r : Word16) :
    (s.finish op r).txStatus = s.txStatus := rfl
@[simp] theorem State.finish_byteCount (s : State) (op : Instr) (r : Word16) :
    (s.finish op r).byteCount = s.byteCount := rfl
@[simp] theorem State.finish_totalBytes (s : State) (op : Instr) (r : Word16) :
    (s.finish op r).totalBytes = s.totalBytes := rfl
@[simp] theorem State.finish_rxChecksum (s : State) (op : Instr) (r : Word16) :
    (s.finish op r).rxChecksum = s.rxChecksum := rfl
@[simp] theorem State.finish_rxIn (s : State) (op : Instr) (r : Word16) : (s.finish op r).rxIn = s.rxIn := rfl
@[simp] theorem State.finish_rxOut (s : State) (op : Instr) (r : Word16) : (s.finish op r).rxOut = s.rxOut := rfl
@[simp] theorem State.finish_freeCount (s : State) (op : Instr) (r : Word16) :
    (s.finish op r).freeCount = s.freeCount := rfl
@[simp] theorem State.finish_rx0 (s : State) (op : Instr) (r : Word16) : (s.finish op r).rx0 = s.rx0 := rfl
@[simp] theorem State.finish_rx1 (s : State) (op : Instr) (r : Word16) : (s.finish op r).rx1 = s.rx1 := rfl
@[simp] theorem State.finish_txFrame (s : State) (op : Instr) (r : Word16) : (s.finish op r).txFrame = s.txFrame := rfl
@[simp] theorem State.finish_misuse (s : State) (op : Instr) (r : Word16) : (s.finish op r).misuse = s.misuse := rfl
@[simp] theorem State.finish_auxState (s : State) (op : Instr) (r : Word16) :
    (s.finish op r).auxState = s.auxState := rfl
@[simp] theorem State.finish_main (s : State) (op : Instr) (r : Word16) : (s.finish op r).main = .idle := rfl
@[simp] theorem State.finish_schedule (s : State) (op : Instr) (r : Word16) :
    (s.finish op r).schedule = s.schedule := rfl
@[simp] theorem State.finish_statusAnswers (s : State) (op : Instr) (r : Word16) :
    (s.finish op r).statusAnswers = s.statusAnswers := rfl
@[simp] theorem State.finish_fifoAnswers (s : State) (op : Instr) (r : Word16) :
    (s.finish op r).fifoAnswers = s.fifoAnswers := rfl
@[simp] theorem State.finish_draws (s : State) (op : Instr) (r : Word16) : (s.finish op r).draws = s.draws := rfl
@[simp] theorem State.finish_hostRes (s : State) (op : Instr) (r : Word16) : (s.finish op r).hostRes = some r := rfl
@[simp] theorem State.finish_obs (s : State) (op : Instr) (r : Word16) :
    (s.finish op r).obs = .result op r :: s.obs := rfl

/-! ### txStore -/

@[simp] theorem State.txStore_params (s : State) (off : Nat) (v : Byte) : (s.txStore off v).params = s.params := rfl
@[simp] theorem State.txStore_linkState (s : State) (off : Nat) (v : Byte) :
    (s.txStore off v).linkState = s.linkState := rfl
@[simp] theorem State.txStore_ie (s : State) (off : Nat) (v : Byte) : (s.txStore off v).ie = s.ie := rfl
@[simp] theorem State.txStore_txStatus (s : State) (off : Nat) (v : Byte) :
    (s.txStore off v).txStatus = s.txStatus := rfl
@[simp] theorem State.txStore_byteCount (s : State) (off : Nat) (v : Byte) :
    (s.txStore off v).byteCount = s.byteCount := rfl
@[simp] theorem State.txStore_totalBytes (s : State) (off : Nat) (v : Byte) :
    (s.txStore off v).totalBytes = s.totalBytes := rfl
@[simp] theorem State.txStore_rxChecksum (s : State) (off : Nat) (v : Byte) :
    (s.txStore off v).rxChecksum = s.rxChecksum := rfl
@[simp] theorem State.txStore_rxIn (s : State) (off : Nat) (v : Byte) : (s.txStore off v).rxIn = s.rxIn := rfl
@[simp] theorem State.txStore_rxOut (s : State) (off : Nat) (v : Byte) : (s.txStore off v).rxOut = s.rxOut := rfl
@[simp] theorem State.txStore_freeCount (s : State) (off : Nat) (v : Byte) :
    (s.txStore off v).freeCount = s.freeCount := rfl
@[simp] theorem State.txStore_rx0 (s : State) (off : Nat) (v : Byte) : (s.txStore off v).rx0 = s.rx0 := rfl
@[simp] theorem State.txStore_rx1 (s : State) (off : Nat) (v : Byte) : (s.txStore off v).rx1 = s.rx1 := rfl
@[simp] theorem State.txStore_txFrame (s : State) (off : Nat) (v : Byte) :
    (s.txStore off v).txFrame = s.txFrame.store off v := rfl
@[simp] theorem State.txStore_misuse (s : State) (off : Nat) (v : Byte) : (s.txStore off v).misuse = s.misuse := rfl
@[simp] theorem State.txStore_auxState (s : State) (off : Nat) (v : Byte) :
    (s.txStore off v).auxState = s.auxState := rfl
@[simp] theorem State.txStore_main (s : State) (off : Nat) (v : Byte) : (s.txStore off v).main = s.main := rfl
@[simp] theorem State.txStore_schedule (s : State) (off : Nat) (v : Byte) :
    (s.txStore off v).schedule = s.schedule := rfl
@[simp] theorem State.txStore_statusAnswers (s : State) (off : Nat) (v : Byte) :
    (s.txStore off v).statusAnswers = s.statusAnswers := rfl
@[simp] theorem State.txStore_fifoAnswers (s : State) (off : Nat) (v : Byte) :
    (s.txStore off v).fifoAnswers = s.fifoAnswers := rfl
@[simp] theorem State.txStore_draws (s : State) (off : Nat) (v : Byte) : (s.txStore off v).draws = s.draws := rfl
@[simp] theorem State.txStore_hostRes (s : State) (off : Nat) (v : Byte) : (s.txStore off v).hostRes = s.hostRes := rfl
@[simp] theorem State.txStore_obs (s : State) (off : Nat) (v : Byte) : (s.txStore off v).obs = s.obs := rfl

/-! ### resetFreeCount -/

@[simp] theorem State.resetFreeCount_params (s : State) : (s.resetFreeCount).params = s.params := rfl
@[simp] theorem State.resetFreeCount_linkState (s : State) : (s.resetFreeCount).linkState = s.linkState := rfl
@[simp] theorem State.resetFreeCount_ie (s : State) : (s.resetFreeCount).ie = s.ie := rfl
@[simp] theorem State.resetFreeCount_txStatus (s : State) : (s.resetFreeCount).txStatus = s.txStatus := rfl
@[simp] theorem State.resetFreeCount_byteCount (s : State) : (s.resetFreeCount).byteCount = s.byteCount := rfl
@[simp] theorem State.resetFreeCount_totalBytes (s : State) : (s.resetFreeCount).totalBytes = s.totalBytes := rfl
@[simp] theorem State.resetFreeCount_rxChecksum (s : State) : (s.resetFreeCount).rxChecksum = s.rxChecksum := rfl
@[simp] theorem State.resetFreeCount_rxIn (s : State) : (s.resetFreeCount).rxIn = s.rxIn := rfl
@[simp] theorem State.resetFreeCount_rxOut (s : State) : (s.resetFreeCount).rxOut = s.rxOut := rfl
@[simp] theorem State.resetFreeCount_freeCount (s : State) :
    (s.resetFreeCount).freeCount = s.params.channelFreeTime := rfl
@[simp] theorem State.resetFreeCount_rx0 (s : State) : (s.resetFreeCount).rx0 = s.rx0 := rfl
@[simp] theorem State.resetFreeCount_rx1 (s : State) : (s.resetFreeCount).rx1 = s.rx1 := rfl
@[simp] theorem State.resetFreeCount_txFrame (s : State) : (s.resetFreeCount).txFrame = s.txFrame := rfl
@[simp] theorem State.resetFreeCount_misuse (s : State) : (s.resetFreeCount).misuse = s.misuse := rfl
@[simp] theorem State.resetFreeCount_auxState (s : State) : (s.resetFreeCount).auxState = s.auxState := rfl
@[simp] theorem State.resetFreeCount_main (s : State) : (s.resetFreeCount).main = s.main := rfl
@[simp] theorem State.resetFreeCount_schedule (s : State) : (s.resetFreeCount).schedule = s.schedule := rfl
@[simp] theorem State.resetFreeCount_statusAnswers (s : State) :
    (s.resetFreeCount).statusAnswers = s.statusAnswers := rfl
@[simp] theorem State.resetFreeCount_fifoAnswers (s : State) : (s.resetFreeCount).fifoAnswers = s.fifoAnswers := rfl
@[simp] theorem State.resetFreeCount_draws (s : State) : (s.resetFreeCount).draws = s.draws := rfl
@[simp] theorem State.resetFreeCount_hostRes (s : State) : (s.resetFreeCount).hostRes = s.hostRes := rfl
@[simp] theorem State.resetFreeCount_obs (s : State) : (s.resetFreeCount).obs = s.obs := rfl

/-! ### fifoReset -/

@[simp] theorem State.fifoReset_params (s : State) : (s.fifoReset).params = s.params := rfl
@[simp] theorem State.fifoReset_linkState (s : State) : (s.fifoReset).linkState = s.linkState := rfl
@[simp] theorem State.fifoReset_ie (s : State) : (s.fifoReset).ie = s.ie := rfl
@[simp] theorem State.fifoReset_txStatus (s : State) : (s.fifoReset).txStatus = s.txStatus := rfl
@[simp] theorem State.fifoReset_byteCount (s : State) : (s.fifoReset).byteCount = s.byteCount := rfl
@[simp] theorem State.fifoReset_totalBytes (s : State) : (s.fifoReset).totalBytes = s.totalBytes := rfl
@[simp] theorem State.fifoReset_rxChecksum (s : State) : (s.fifoReset).rxChecksum = s.rxChecksum := rfl
@[simp] theorem State.fifoReset_rxIn (s : State) : (s.fifoReset).rxIn = s.rxIn := rfl
@[simp] theorem State.fifoReset_rxOut (s : State) : (s.fifoReset).rxOut = s.rxOut := rfl
@[simp] theorem State.fifoReset_freeCount (s : State) : (s.fifoReset).freeCount = s.freeCount := rfl
@[simp] theorem State.fifoReset_rx0 (s : State) : (s.fifoReset).rx0 = s.rx0 := rfl
@[simp] theorem State.fifoReset_rx1 (s : State) : (s.fifoReset).rx1 = s.rx1 := rfl
@[simp] theorem State.fifoReset_txFrame (s : State) : (s.fifoReset).txFrame = s.txFrame := rfl
@[simp] theorem State.fifoReset_misuse (s : State) : (s.fifoReset).misuse = s.misuse := rfl
@[simp] theorem State.fifoReset_auxState (s : State) : (s.fifoReset).auxState = s.auxState := rfl
@[simp] theorem State.fifoReset_main (s : State) : (s.fifoReset).main = s.main := rfl
@[simp] theorem State.fifoReset_schedule (s : State) : (s.fifoReset).schedule = s.schedule := rfl
@[simp] theorem State.fifoReset_statusAnswers (s : State) : (s.fifoReset).statusAnswers = s.statusAnswers := rfl
@[simp] theorem State.fifoReset_fifoAnswers (s : State) : (s.fifoReset).fifoAnswers = s.fifoAnswers := rfl
@[simp] theorem State.fifoReset_draws (s : State) : (s.fifoReset).draws = s.draws := rfl
@[simp] theorem State.fifoReset_hostRes (s : State) : (s.fifoReset).hostRes = s.hostRes := rfl
@[simp] theorem State.fifoReset_obs (s : State) : (s.fifoReset).obs = fifoResetObs s.params ++ s.obs := rfl

/-! ### initRegisters -/

@[simp] theorem State.initRegisters_params (s : State) : (s.initRegisters).params = s.params := rfl
@[simp] theorem State.initRegisters_linkState (s : State) : (s.initRegisters).linkState = .rxIdle := rfl
@[simp] theorem State.initRegisters_ie (s : State) : (s.initRegisters).ie = s.ie := rfl
@[simp] theorem State.initRegisters_txStatus (s : State) : (s.initRegisters).txStatus = .free := rfl
@[simp] theorem State.initRegisters_byteCount (s : State) : (s.initRegisters).byteCount = 0 := rfl
@[simp] theorem State.initRegisters_totalBytes (s : State) : (s.initRegisters).totalBytes = 0 := rfl
@[simp] theorem State.initRegisters_rxChecksum (s : State) : (s.initRegisters).rxChecksum = 0 := rfl
@[simp] theorem State.initRegisters_rxIn (s : State) : (s.initRegisters).rxIn = 0 := rfl
@[simp] theorem State.initRegisters_rxOut (s : State) : (s.initRegisters).rxOut = 0 := rfl
@[simp] theorem State.initRegisters_freeCount (s : State) :
    (s.initRegisters).freeCount = s.params.channelFreeTime := rfl
@[simp] theorem State.initRegisters_rx0 (s : State) : (s.initRegisters).rx0 = { s.rx0 with status := .free } := rfl
@[simp] theorem State.initRegisters_rx1 (s : State) : (s.initRegisters).rx1 = { s.rx1 with status := .free } := rfl
@[simp] theorem State.initRegisters_txFrame (s : State) : (s.initRegisters).txFrame = s.txFrame := rfl
@[simp] theorem State.initRegisters_misuse (s : State) : (s.initRegisters).misuse = s.misuse := rfl
@[simp] theorem State.initRegisters_auxState (s : State) : (s.initRegisters).auxState = .init := rfl
@[simp] theorem State.initRegisters_main (s : State) : (s.initRegisters).main = s.main := rfl
@[simp] theorem State.initRegisters_schedule (s : State) : (s.initRegisters).schedule = s.schedule := rfl
@[simp] theorem State.initRegisters_statusAnswers (s : State) : (s.initRegisters).statusAnswers = s.statusAnswers := rfl
@[simp] theorem State.initRegisters_fifoAnswers (s : State) : (s.initRegisters).fifoAnswers = s.fifoAnswers := rfl
@[simp] theorem State.initRegisters_draws (s : State) : (s.initRegisters).draws = s.draws := rfl
@[simp] theorem State.initRegisters_hostRes (s : State) : (s.initRegisters).hostRes = s.hostRes := rfl
@[simp] theorem State.initRegisters_obs (s : State) : (s.initRegisters).obs = s.obs := rfl

end Sys2Proof.Machine
end

