-- ==== Sys2Proof/Laws/Ops.lean ====
section
/-! SUPPORT. For each shared operation, once, all that it does: the operation as one record update. -/

namespace Sys2Proof.Machine

/-! ## IE and MISUSE -/

theorem State.setIe_eq (s : State) (v : Bool) :
    s.setIe v = { s with ie := v, obs := (if s.ie = v then [] else [.ie v]) ++ s.obs } := by
  unfold State.setIe
  split
  · next h => subst h; rfl
  · rfl

theorem State.setMisuse_eq (s : State) (m : Byte) :
    s.setMisuse m = { s with
      misuse := s.misuse ||| m
      obs := (if s.misuse ||| m = s.misuse then [] else [.misuse (s.misuse ||| m)]) ++ s.obs } := by
  unfold State.setMisuse
  split
  · next h => rw [h]; rfl
  · rfl

/-! ## Draws -/

theorem State.drawCell_eq (s : State) : s.drawCell = (Config.unspecByte s.draws, { s with draws := s.draws + 1 }) := rfl

theorem State.drawStatus_eq (s : State) :
    s.drawStatus = (statusAnswerOf s, { s with statusAnswers := s.statusAnswers.tail, draws := s.draws + 1 }) := by
  unfold State.drawStatus statusAnswerOf
  split
  · next h => simp [h]
  · next h => cases s; simp_all

theorem State.drawFifo_eq (s : State) :
    s.drawFifo = (s.fifoAnswers.headD (Config.fifoAnswer s.draws),
      { s with fifoAnswers := s.fifoAnswers.tail, draws := s.draws + 1 }) := by
  unfold State.drawFifo
  split
  · next h => simp [h]
  · next h => cases s; simp_all

/-! ## SPI -/

theorem State.spiStatusRead_eq (s : State) :
    s.spiStatusRead = (statusAnswerOf s, { s with
      statusAnswers := s.statusAnswers.tail, draws := s.draws + 1
      obs := .spi .statusRead s.params.spi.statusRead (some (statusAnswerOf s)) :: s.obs }) := by
  simp only [State.spiStatusRead, State.drawStatus_eq]; rfl

theorem State.spiFifoRead_eq (s : State) :
    s.spiFifoRead = (s.fifoAnswers.headD (Config.fifoAnswer s.draws), { s with
      fifoAnswers := s.fifoAnswers.tail, draws := s.draws + 1
      obs := fifoReadObs s (s.fifoAnswers.headD (Config.fifoAnswer s.draws)) :: s.obs }) := by
  simp only [State.spiFifoRead, State.drawFifo_eq]; rfl

theorem State.spiSeq_eq (items : List SeqItem) (cmd : Instr) (s : State) :
    s.spiSeq cmd items = { s with obs := seqObs cmd items ++ s.obs } := by
  induction items generalizing s with
  | nil => rfl
  | cons x items ih => cases x <;> simp [State.spiSeq, ih, seqObs, State.spi, State.delay]

theorem State.fifoReset_eq (s : State) : s.fifoReset = { s with obs := fifoResetObs s.params ++ s.obs } := rfl

theorem State.epilogue_eq (s : State) :
    s.epilogue = { s with linkState := .rxIdle, obs := fifoResetObs s.params ++ s.obs } := rfl

/-- The value of AUX_STATE after INIT is AUX_INIT. -/
@[simp] theorem AuxState.value_init : AuxState.init.value = Config.auxInit := rfl

/-- The value of AUX_STATE after AuxHandler is the one AuxHandler gives. -/
@[simp] theorem AuxState.value_after (a : AuxState) (S : Word16) :
    (a.after S).value = (Config.auxHandler S a.value).2 := rfl

/-- With an AUX flag set, AuxHandler gives the value, and its words but the forbidden ones go out. -/
theorem auxResult_of_flag_on {p : Params} (h : p.auxWakeup = true ∨ p.auxLowbat = true) (S : Word16) (a : AuxState) :
    auxResult p S a = (auxAllowed p.spi (Config.auxHandler S a.value).1, a.after S) := by
  simp [auxResult, h]

/-- With both AUX flags 0, AuxHandler is the identity and sends nothing. -/
theorem auxResult_of_flags_off {p : Params} (hw : p.auxWakeup = false) (hl : p.auxLowbat = false) (S : Word16)
    (a : AuxState) : auxResult p S a = ([], a) := by
  simp [auxResult, hw, hl]

/-- No word AuxHandler sends is reserved. -/
theorem auxResult_not_reserved {p : Params} {S : Word16} {a : AuxState} {w : Word16} (h : w ∈ (auxResult p S a).1) :
    p.spi.reserved w = false := by
  unfold auxResult at h
  split at h
  · simpa using (List.mem_filter.mp h).2
  · cases h

/-- The power words of a build: the base word OR each mask whose flag is set. -/
theorem ewbMask_ewb (p : Params) :
    ewbMask p.spi p.ewb =
      (if p.auxWakeup then p.spi.ewbWakeup else 0) ||| (if p.auxLowbat then p.spi.ewbLowbat else 0) := by
  unfold ewbMask Params.ewb
  cases p.auxWakeup <;> cases p.auxLowbat <;> rfl

theorem State.auxDispatch_eq (s : State) (S : Word16) :
    s.auxDispatch S = { s with
      auxState := (auxResult s.params S s.auxState).2
      obs := seqObs (.auxWords (auxResult s.params S s.auxState).1)
        ((auxResult s.params S s.auxState).1.map .word) ++ s.obs } := by
  simp only [State.auxDispatch, State.spiSeq_eq]

theorem State.handlerPrologue_eq (s : State) : s.handlerPrologue = (statusAnswerOf s, prologueState s) := by
  simp only [State.handlerPrologue, State.spiStatusRead_eq, State.auxDispatch_eq]; rfl

/-! ## Receive slots -/

/-- A slot number is 0 or 1. -/
theorem slot_cases (i : BitVec 1) : i = 0 ∨ i = 1 := by
  have h := i.isLt
  rcases (by omega : i.toNat = 0 ∨ i.toNat = 1) with h | h
  · exact .inl (BitVec.eq_of_toNat_eq h)
  · exact .inr (BitVec.eq_of_toNat_eq h)

@[simp] theorem slot_xor_ne (i : BitVec 1) : i ^^^ 1 ≠ i := by rcases slot_cases i with h | h <;> subst h <;> decide
@[simp] theorem slot_xor_xor (i : BitVec 1) : i ^^^ 1 ^^^ 1 = i := by
  rcases slot_cases i with h | h <;> subst h <;> decide
theorem slot_eq_xor_of_ne {i j : BitVec 1} (h : i ≠ j) : i = j ^^^ 1 := by
  rcases slot_cases i with hi | hi <;> rcases slot_cases j with hj | hj <;> subst hi <;> subst hj <;> simp_all

theorem State.setRxSlot_eq (s : State) (i : BitVec 1) (r : RxSlot) :
    s.setRxSlot i r = { s with rx0 := if i = 0 then r else s.rx0, rx1 := if i = 0 then s.rx1 else r } := by
  unfold State.setRxSlot; split <;> rfl

@[simp] theorem State.rxSlot_setRxSlot_self (s : State) (i : BitVec 1) (r : RxSlot) : (s.setRxSlot i r).rxSlot i = r := by
  rcases slot_cases i with h | h <;> subst h <;> rfl

theorem State.rxSlot_setRxSlot_of_ne (s : State) {i j : BitVec 1} (r : RxSlot) (h : j ≠ i) :
    (s.setRxSlot i r).rxSlot j = s.rxSlot j := by
  rcases slot_cases i with hi | hi <;> rcases slot_cases j with hj | hj <;> subst hi <;> subst hj <;>
    first | rfl | exact absurd rfl h

/-- What a cell holds after a write to RXSLOT(i). -/
theorem State.rxCell_rxWrite (s : State) (i j : BitVec 1) (off a : Nat) (v : Byte) :
    (s.rxWrite i off v).rxCell j a = if j = i ∧ a = off then some v else s.rxCell j a := by
  unfold State.rxWrite State.rxCell
  by_cases h : j = i
  · subst h; simp [Memory.byteAt_store]
  · simp [State.rxSlot_setRxSlot_of_ne _ _ h, h]

/-- A write to a slot's cells leaves every STATUS alone. -/
@[simp] theorem State.rxWrite_status (s : State) (i j : BitVec 1) (off : Nat) (v : Byte) :
    ((s.rxWrite i off v).rxSlot j).status = (s.rxSlot j).status := by
  unfold State.rxWrite
  by_cases h : j = i
  · subst h; simp
  · rw [State.rxSlot_setRxSlot_of_ne _ _ h]

/-- Writing a STATUS leaves every cell alone. -/
@[simp] theorem State.rxCell_setRxStatus (s : State) (i j : BitVec 1) (v : SlotStatus) (a : Nat) :
    (s.setRxStatus i v).rxCell j a = s.rxCell j a := by
  unfold State.setRxStatus State.rxCell
  by_cases h : j = i
  · subst h; simp
  · rw [State.rxSlot_setRxSlot_of_ne _ _ h]

theorem State.rxRead_of_some {s : State} {i : BitVec 1} {off : Nat} {b : Byte} (h : s.rxCell i off = some b) :
    s.rxRead i off = (b, s) := by unfold State.rxRead; rw [h]

theorem State.rxRead_of_none {s : State} {i : BitVec 1} {off : Nat} (h : s.rxCell i off = none) :
    s.rxRead i off = s.drawCell := by unfold State.rxRead; rw [h]

/-! ## The transmit frame -/

theorem State.txRead_of_some {s : State} {off : Nat} {b : Byte} (h : s.txCell off = some b) :
    s.txRead off = (b, s) := by unfold State.txRead; rw [h]

theorem State.txRead_of_none {s : State} {off : Nat} (h : s.txCell off = none) :
    s.txRead off = s.drawCell := by unfold State.txRead; rw [h]

/-- A stored cell that is a header or payload cell reads as written, every other cell as before. -/
theorem State.txCell_txStore (s : State) (off a : Nat) (v : Byte) (h2 : 2 ≤ off)
    (hp : off < 5 + s.params.txBufferSize) :
    (s.txStore off v).txCell a = if a = off then some v else s.txCell a := by
  simp only [State.txCell, State.txStore_params, State.txStore_txFrame, txPayloadOffset, Memory.byteAt_store]
  by_cases h : a = off
  · subst h
    rw [if_neg (by omega), if_neg (by omega), if_neg (by omega), if_pos rfl, if_pos rfl]
  · rw [if_neg h, if_neg h]; rfl

/-! ## The error results -/

theorem State.raiseIllegal_eq (s : State) (op : Instr) :
    s.raiseIllegal op = { s with
      misuse := s.misuse ||| maskIllegal, main := .idle, hostRes := some resIllegal
      obs := .result op resIllegal :: ((if s.misuse ||| maskIllegal = s.misuse then []
        else [.misuse (s.misuse ||| maskIllegal)]) ++ s.obs) } := by
  rw [State.raiseIllegal, State.setMisuse_eq]; rfl

theorem State.raiseBadIndex_eq (s : State) (op : Instr) (i : Byte) :
    s.raiseBadIndex op i = { s with
      misuse := s.misuse ||| maskRange, main := .idle, hostRes := some (resBadIndex i)
      obs := .result op (resBadIndex i) :: ((if s.misuse ||| maskRange = s.misuse then []
        else [.misuse (s.misuse ||| maskRange)]) ++ s.obs) } := by
  rw [State.raiseBadIndex, State.setMisuse_eq]; rfl

end Sys2Proof.Machine
end

