-- ==== Sys2Proof/Laws/PerInstr.lean ====
section
/-! SUPPORT. Per instruction: the encoder's word matches the instruction's row of spec/opcode_table.json, in every
bit the row fixes, whatever the operands. -/

namespace Sys2Proof.Laws

open Sys2Proof

/-- The row's (match, mask), under the default SPI words. ILLEGAL (whose row shows one reserved code of many), the
event and the two word lists have none. -/
def tableRow : Instr → Option (Nat × Nat)
  | .init => some (0x00000000, 0xFFFFFFFF)
  | .enqueue _ _ => some (0x00000001, 0xFF0000FF)
  | .copyEnqueue _ _ _ => some (0x00000002, 0xFF0000FF)
  | .writeTxp _ _ => some (0x00000003, 0xFF0000FF)
  | .poll => some (0x00000004, 0xFFFFFFFF)
  | .getLen => some (0x00000005, 0xFFFFFFFF)
  | .getType => some (0x00000006, 0xFFFFFFFF)
  | .readRxp _ => some (0x00000007, 0xFFFF00FF)
  | .release => some (0x00000008, 0xFFFFFFFF)
  | .tick => some (0x00000009, 0xFFFFFFFF)
  | .swReset => some (0x0000000A, 0xFFFFFFFF)
  | .service => some (0x0000000B, 0xFFFFFFFF)
  | .illegal _ _ => none
  | .irqEvent => none
  | .statusRead => some (0x0000, 0xFFFF)
  | .fifoRead => some (0xB000, 0xFFFF)
  | .txWrite _ => some (0xB800, 0xFF00)
  | .fifoClear => some (0xCA81, 0xFFFF)
  | .fifoAccept => some (0xCA83, 0xFFFF)
  | .pwrReceive _ => some (0x8281, 0xFFF9)
  | .pwrStandby _ => some (0x8201, 0xFFF9)
  | .pwrTransmit _ => some (0x8221, 0xFFF9)
  | .xcvrReset => some (0xFE00, 0xFFFF)
  | .configSeq => none
  | .auxWords _ => none

/-- The bits of what stands at an interface, when they are one word. -/
def encodedWord : Encoded → Option Nat
  | .host c => some c.word.toNat
  | .spi w => some w.toNat
  | .seq _ => none
  | .event => none

/-- The encoded word agrees with the row under its mask. -/
def MatchesRow.Statement (i : Instr) : Prop :=
  ∀ (p : Params), p.spi = defaultSpiWords → ∀ (row : Nat × Nat) (w : Nat), tableRow i = some row →
    encodedWord (encode p i) = some w → w &&& row.2 = row.1

/-- A command word whose operands are masked out. -/
theorem hostWord_masked (op : BitVec 4) (a b : Byte) : (hostWord op a b).toNat &&& 0xFF0000FF = op.toNat := by
  have h : hostWord op a b &&& 0xFF0000FF#32 = op.zeroExtend 32 := by
    unfold hostWord
    ext i hi
    simp only [BitVec.getElem_and, BitVec.getElem_append, BitVec.getElem_setWidth]
    interval_cases i <;> simp
  have h' := congrArg BitVec.toNat h
  have hop := op.isLt
  rw [BitVec.toNat_and, BitVec.toNat_setWidth, Nat.mod_eq_of_lt (by omega)] at h'
  exact h'

/-- A command word whose operand A is masked out, B being 0. -/
theorem hostWord_masked_a (op : BitVec 4) (a : Byte) : (hostWord op a 0).toNat &&& 0xFFFF00FF = op.toNat := by
  have h : hostWord op a 0 &&& 0xFFFF00FF#32 = op.zeroExtend 32 := by
    unfold hostWord
    ext i hi
    simp only [BitVec.getElem_and, BitVec.getElem_append, BitVec.getElem_setWidth]
    interval_cases i <;> simp
  have h' := congrArg BitVec.toNat h
  have hop := op.isLt
  rw [BitVec.toNat_and, BitVec.toNat_setWidth, Nat.mod_eq_of_lt (by omega)] at h'
  exact h'

theorem MatchesRow.init : MatchesRow.Statement .init := by
  intro p _ row w hr hw; cases hr; cases hw; rfl
theorem MatchesRow.enqueue (type length : Byte) : MatchesRow.Statement (.enqueue type length) := by
  intro p _ row w hr hw; cases hr; cases hw; exact hostWord_masked 1 type length
theorem MatchesRow.copyEnqueue (type length : Byte) (data : List Byte) :
    MatchesRow.Statement (.copyEnqueue type length data) := by
  intro p _ row w hr hw; cases hr; cases hw; exact hostWord_masked 2 type length
theorem MatchesRow.writeTxp (index value : Byte) : MatchesRow.Statement (.writeTxp index value) := by
  intro p _ row w hr hw; cases hr; cases hw; exact hostWord_masked 3 index value
theorem MatchesRow.poll : MatchesRow.Statement .poll := by
  intro p _ row w hr hw; cases hr; cases hw; rfl
theorem MatchesRow.getLen : MatchesRow.Statement .getLen := by
  intro p _ row w hr hw; cases hr; cases hw; rfl
theorem MatchesRow.getType : MatchesRow.Statement .getType := by
  intro p _ row w hr hw; cases hr; cases hw; rfl
theorem MatchesRow.readRxp (index : Byte) : MatchesRow.Statement (.readRxp index) := by
  intro p _ row w hr hw; cases hr; cases hw; exact hostWord_masked_a 7 index
theorem MatchesRow.release : MatchesRow.Statement .release := by
  intro p _ row w hr hw; cases hr; cases hw; rfl
theorem MatchesRow.tick : MatchesRow.Statement .tick := by
  intro p _ row w hr hw; cases hr; cases hw; rfl
theorem MatchesRow.swReset : MatchesRow.Statement .swReset := by
  intro p _ row w hr hw; cases hr; cases hw; rfl
theorem MatchesRow.service : MatchesRow.Statement .service := by
  intro p _ row w hr hw; cases hr; cases hw; rfl
theorem MatchesRow.illegal (word : Word32) (data : Option (List Byte)) :
    MatchesRow.Statement (.illegal word data) := by
  intro p _ row w hr; cases hr
theorem MatchesRow.irqEvent : MatchesRow.Statement .irqEvent := by
  intro p _ row w hr; cases hr
theorem MatchesRow.statusRead : MatchesRow.Statement .statusRead := by
  intro p hp row w hr hw; cases hr; cases hw; rw [hp]; rfl
theorem MatchesRow.fifoRead : MatchesRow.Statement .fifoRead := by
  intro p hp row w hr hw; cases hr; cases hw; rw [hp]; rfl
theorem MatchesRow.txWrite (b : Byte) : MatchesRow.Statement (.txWrite b) := by
  intro p hp row w hr hw; cases hr; cases hw; rw [hp]
  have h : txWriteWord defaultSpiWords b &&& 0xFF00#16 = 0xB800#16 := by
    unfold txWriteWord defaultSpiWords
    ext i hi
    simp only [BitVec.getElem_and, BitVec.getElem_append]
    interval_cases i <;> simp
  simpa [BitVec.toNat_and] using congrArg BitVec.toNat h
theorem MatchesRow.fifoClear : MatchesRow.Statement .fifoClear := by
  intro p hp row w hr hw; cases hr; cases hw; rw [hp]; rfl
theorem MatchesRow.fifoAccept : MatchesRow.Statement .fifoAccept := by
  intro p hp row w hr hw; cases hr; cases hw; rw [hp]; rfl
theorem MatchesRow.pwrReceive (ewb : BitVec 2) : MatchesRow.Statement (.pwrReceive ewb) := by
  intro p hp row w hr hw; cases hr; cases hw; rw [hp]; revert ewb; decide
theorem MatchesRow.pwrStandby (ewb : BitVec 2) : MatchesRow.Statement (.pwrStandby ewb) := by
  intro p hp row w hr hw; cases hr; cases hw; rw [hp]; revert ewb; decide
theorem MatchesRow.pwrTransmit (ewb : BitVec 2) : MatchesRow.Statement (.pwrTransmit ewb) := by
  intro p hp row w hr hw; cases hr; cases hw; rw [hp]; revert ewb; decide
theorem MatchesRow.xcvrReset : MatchesRow.Statement .xcvrReset := by
  intro p hp row w hr hw; cases hr; cases hw; rw [hp]; rfl
theorem MatchesRow.configSeq : MatchesRow.Statement .configSeq := by
  intro p _ row w hr; cases hr
theorem MatchesRow.auxWords (words : List Word16) : MatchesRow.Statement (.auxWords words) := by
  intro p _ row w hr; cases hr

end Sys2Proof.Laws
end

