-- ==== Sys2Proof/Laws/Step.lean ====
section
/-! SUPPORT. What a step, and a handler invocation, can do, said once: proofs about every step start from
`step_cases` and, for the handler, from `handler_eq` and the branch lemmas. -/

namespace Sys2Proof.Machine

/-! ## The handler's branches -/

/-- A handler invocation is its prologue and then, with FFIT = 1, the branch on LINK_STATE (R102). -/
theorem handler_eq (s : State) :
    handler s = if ffit s.params (statusAnswerOf s) = true then
        match s.linkState with
        | .rxIdle => .next (handleRxIdle (prologueState s))
        | .rxActive => .next (handleRxActive (prologueState s))
        | .tx => handleTx (prologueState s)
      else .next (prologueState s) := by
  have hp : (prologueState s).params = s.params := rfl
  have hl : (prologueState s).linkState = s.linkState := rfl
  simp only [handler, State.handlerPrologue_eq, hp, hl]
  cases s.linkState <;> cases ffit s.params (statusAnswerOf s) <;> rfl

/-- The byte a FIFO_READ answers next. -/
abbrev fifoByteOf (s : State) : Byte := s.fifoAnswers.headD (Config.fifoAnswer s.draws)

/-- The state after FIFO_READ (R129). -/
abbrev fifoReadState (s : State) : State :=
  { s with
    fifoAnswers := s.fifoAnswers.tail, draws := s.draws + 1
    obs := fifoReadObs s (fifoByteOf s) :: s.obs }

/-- A write to a slot touches the slots only. -/
theorem State.rxWrite_eq (s : State) (i : BitVec 1) (off : Nat) (v : Byte) :
    s.rxWrite i off v = { s with rx0 := (s.rxWrite i off v).rx0, rx1 := (s.rxWrite i off v).rx1 } := by
  unfold State.rxWrite; rw [State.setRxSlot_eq]

/-- Writing a STATUS touches the slots only. -/
theorem State.setRxStatus_eq (s : State) (i : BitVec 1) (v : SlotStatus) :
    s.setRxStatus i v = { s with rx0 := (s.setRxStatus i v).rx0, rx1 := (s.setRxStatus i v).rx1 } := by
  unfold State.setRxStatus; rw [State.setRxSlot_eq]

/-- The bounded store touches the slots only. -/
theorem State.rxStoreBounded_eq (s : State) (k : Nat) (d : Byte) :
    s.rxStoreBounded k d =
      { s with rx0 := (s.rxStoreBounded k d).rx0, rx1 := (s.rxStoreBounded k d).rx1 } := by
  unfold State.rxStoreBounded
  split
  · exact State.rxWrite_eq ..
  · rfl

/-- What a cell holds after the bounded store (R109). -/
theorem State.rxCell_rxStoreBounded (s : State) (k : Nat) (d : Byte) (j : BitVec 1) (a : Nat) :
    (s.rxStoreBounded k d).rxCell j a =
      if k < rxSlotSize s.params ∧ j = s.rxIn ∧ a = k then some d else s.rxCell j a := by
  unfold State.rxStoreBounded
  split
  · next h => rw [State.rxCell_rxWrite]; simp [h]
  · next h => simp [h]

@[simp] theorem State.rxStoreBounded_status (s : State) (k : Nat) (d : Byte) (j : BitVec 1) :
    ((s.rxStoreBounded k d).rxSlot j).status = (s.rxSlot j).status := by
  unfold State.rxStoreBounded
  split
  · exact State.rxWrite_status ..
  · rfl

/-- RX_IDLE with a FREE slot (R107). -/
theorem handleRxIdle_of_free {s : State} (h : (s.rxSlot s.rxIn).status = .free) :
    handleRxIdle s = { fifoReadState s with
      rx0 := (s.rxWrite s.rxIn rxLenOffset (fifoByteOf s)).rx0
      rx1 := (s.rxWrite s.rxIn rxLenOffset (fifoByteOf s)).rx1
      totalBytes := (fifoByteOf s).zeroExtend 16 + 3, rxChecksum := fifoByteOf s, byteCount := 1
      linkState := .rxActive } := by
  unfold handleRxIdle
  simp only [State.spiFifoRead_eq]
  generalize hq : ({ fifoReadState s with totalBytes := (fifoByteOf s).zeroExtend 16 + 3 } : State) = q
  have hs : (q.rxSlot s.rxIn).status = .free := by subst hq; exact h
  rw [hs]
  subst hq
  simp only [State.rxWrite, State.setRxSlot_eq]
  rfl

/-- RX_IDLE with no FREE slot (R107). -/
theorem handleRxIdle_of_complete {s : State} (h : (s.rxSlot s.rxIn).status = .complete) :
    handleRxIdle s = { fifoReadState s with
      totalBytes := (fifoByteOf s).zeroExtend 16 + 3, linkState := .rxIdle
      obs := fifoResetObs s.params ++ (fifoReadState s).obs } := by
  unfold handleRxIdle
  simp only [State.spiFifoRead_eq]
  generalize hq : ({ fifoReadState s with totalBytes := (fifoByteOf s).zeroExtend 16 + 3 } : State) = q
  have hs : (q.rxSlot s.rxIn).status = .complete := by subst hq; exact h
  rw [hs]
  subst hq
  rfl

/-- RX_ACTIVE after the byte is read, accumulated and stored (R108, R109). -/
abbrev rxByteState (s : State) : State :=
  { fifoReadState s with
    rxChecksum := s.rxChecksum ^^^ fifoByteOf s
    rx0 := (s.rxStoreBounded s.byteCount.toNat (fifoByteOf s)).rx0
    rx1 := (s.rxStoreBounded s.byteCount.toNat (fifoByteOf s)).rx1 }

theorem handleRxActive_eq (s : State) :
    handleRxActive s =
      if s.byteCount = 2 ∧ headerValid (s.rxChecksum ^^^ fifoByteOf s) = false then (rxByteState s).epilogue
      else (rxByteState s).rxAdvance s.byteCount := by
  unfold handleRxActive
  simp only [State.spiFifoRead_eq]
  have key : State.rxStoreBounded { fifoReadState s with rxChecksum := s.rxChecksum ^^^ fifoByteOf s }
      s.byteCount.toNat (fifoByteOf s) = rxByteState s := by
    unfold rxByteState State.rxStoreBounded
    show (if s.byteCount.toNat < rxSlotSize s.params then _ else _) = _
    split
    · simp only [State.rxWrite, State.setRxSlot_eq]; rfl
    · rfl
  show (if s.byteCount = 2 ∧ headerValid (State.rxStoreBounded { fifoReadState s with
    rxChecksum := s.rxChecksum ^^^ fifoByteOf s } s.byteCount.toNat (fifoByteOf s)).rxChecksum = false
    then State.epilogue (State.rxStoreBounded { fifoReadState s with
    rxChecksum := s.rxChecksum ^^^ fifoByteOf s } s.byteCount.toNat (fifoByteOf s)) else
    State.rxAdvance (State.rxStoreBounded { fifoReadState s with
    rxChecksum := s.rxChecksum ^^^ fifoByteOf s } s.byteCount.toNat (fifoByteOf s)) s.byteCount) = _
  rw [key]

/-- Advance, the frame goes on (R111). -/
theorem State.rxAdvance_of_lt {s : State} {k : Word16} (h : k + 1 < s.totalBytes) :
    s.rxAdvance k = { s with byteCount := k + 1 } := by
  unfold State.rxAdvance
  exact if_pos h

/-- Advance, the frame is complete (R112). -/
theorem State.rxAdvance_of_not_lt {s : State} {k : Word16} (h : ¬ k + 1 < s.totalBytes) :
    s.rxAdvance k = { s with
      byteCount := k + 1, rx0 := (s.setRxStatus s.rxIn .complete).rx0, rx1 := (s.setRxStatus s.rxIn .complete).rx1
      rxIn := s.rxIn ^^^ 1, linkState := .rxIdle, obs := fifoResetObs s.params ++ s.obs } := by
  unfold State.rxAdvance
  refine (if_neg h).trans ?_
  simp only [State.setRxStatus, State.setRxSlot_eq]
  rfl

/-- TX, one frame byte (R113). -/
theorem State.txSendByte_eq (s : State) :
    ∃ b : Byte, (∀ c, s.txCell s.byteCount.toNat = some c → b = c) ∧
      s.txSendByte = { s with
        draws := if (s.txCell s.byteCount.toNat).isSome then s.draws else s.draws + 1
        byteCount := s.byteCount + 1
        obs := .spi (.txWrite b) (txWriteWord s.params.spi b) none :: s.obs } := by
  cases hc : s.txCell s.byteCount.toNat with
  | some b => exact ⟨b, by simp, by rw [State.txSendByte, State.txRead_of_some hc]; rfl⟩
  | none => exact ⟨Config.unspecByte s.draws, by simp, by rw [State.txSendByte, State.txRead_of_none hc]; rfl⟩

/-- TX, the end of a frame (R114, R115). -/
theorem State.txDone_eq (s : State) :
    s.txDone = { s with
      txStatus := .free, linkState := .rxIdle
      obs := fifoResetObs s.params ++ .spi (.txWrite s.params.dummy) (txWriteWord s.params.spi s.params.dummy) none
        :: .spi (.pwrReceive s.params.ewb) (pwrReceiveWord s.params.spi s.params.ewb) none :: s.obs } := rfl

/-! ## The micro-steps of TICK -/

/-- T2 without a carrier, when the gate passes (R121, R122). -/
theorem tickT2_of_gate {s : State} {S : Word16} (hr : rssi s.params S = false) (hc : countDown s.freeCount = 0)
    (ho : s.txStatus = .occupied) : tickT2 S s = { s with freeCount := countDown s.freeCount, main := .tickStart } := by
  unfold tickT2
  rw [if_neg (by simp [hr])]
  exact if_pos ⟨hc, ho⟩

/-- T2 without a carrier, when the gate does not pass (R121, R122). -/
theorem tickT2_of_not_gate {s : State} {S : Word16} (hr : rssi s.params S = false)
    (h : ¬ (countDown s.freeCount = 0 ∧ s.txStatus = .occupied)) :
    tickT2 S s = State.finish { s with freeCount := countDown s.freeCount } .tick resDone := by
  unfold tickT2
  rw [if_neg (by simp [hr])]
  exact if_neg h

/-- T2 with a carrier (R120). -/
theorem tickT2_of_carrier {s : State} {S : Word16} (hr : rssi s.params S = true) :
    tickT2 S s = s.resetFreeCount.finish .tick resDone := by
  unfold tickT2
  rw [if_pos hr]

theorem countDown_toNat (n : Byte) : (countDown n).toNat = n.toNat - 1 := by
  unfold countDown
  split
  · next h => subst h; rfl
  · next h =>
    have h0 : n.toNat ≠ 0 := fun h' => h (BitVec.eq_of_toNat_eq h')
    have := n.isLt
    rw [BitVec.toNat_sub]
    simp only [BitVec.reduceToNat]
    omega

/-- The transmission start on a written length cell (R123). -/
theorem State.startTransmission_of_some {s : State} {l : Byte} (h : s.txCell txLenOffset = some l) :
    s.startTransmission = { s with
      totalBytes := l.zeroExtend 16 + BitVec.ofNat 16 s.params.txOverhead, byteCount := 0, linkState := .tx
      obs := .spi (.pwrTransmit s.params.ewb) (pwrTransmitWord s.params.spi s.params.ewb) none
        :: .spi (.txWrite s.params.preamble) (txWriteWord s.params.spi s.params.preamble) none
        :: .spi (.txWrite s.params.preamble) (txWriteWord s.params.spi s.params.preamble) none
        :: .spi (.pwrStandby s.params.ewb) (pwrStandbyWord s.params.spi s.params.ewb) none :: s.obs } := by
  have h' : (s.spiPwrStandby s.params.ewb).txRead txLenOffset = (l, s.spiPwrStandby s.params.ewb) :=
    State.txRead_of_some h
  simp only [State.startTransmission, h']
  rfl

/-- TOTAL_BYTES of a transmission is exact (R20, R33). -/
theorem txTotal_toNat (p : Params) (l : Byte) :
    ((l.zeroExtend 16 : Word16) + BitVec.ofNat 16 p.txOverhead).toNat = l.toNat + p.txOverhead := by
  have := l.isLt
  have : p.txOverhead = 5 ∨ p.txOverhead = 6 := by unfold Params.txOverhead; split <;> simp
  rw [BitVec.toNat_add, BitVec.toNat_setWidth, BitVec.toNat_ofNat]
  omega

/-- TOTAL_BYTES of a reception is exact (R20, R33). -/
theorem rxTotal_toNat (l : Byte) : ((l.zeroExtend 16 : Word16) + 3).toNat = l.toNat + 3 := by
  have := l.isLt
  rw [BitVec.toNat_add, BitVec.toNat_setWidth]
  simp only [BitVec.reduceToNat]
  omega

/-! ## RELEASE m1 -/

/-- RELEASE m1 on a COMPLETE slot (R98). -/
theorem releaseStart_of_complete {s : State} (h : (s.rxSlot s.rxOut).status = .complete) :
    releaseStart s = { s with
      rx0 := (s.setRxStatus s.rxOut .free).rx0, rx1 := (s.setRxStatus s.rxOut .free).rx1
      main := .releaseToggle } := by
  simp only [releaseStart, h, State.setRxStatus, State.setRxSlot_eq]

/-- RELEASE m1 on a FREE slot: recorded misuse (R98, R149). -/
theorem releaseStart_of_free {s : State} (h : (s.rxSlot s.rxOut).status = .free) :
    releaseStart s = { s with
      rx0 := (s.setRxStatus s.rxOut .free).rx0, rx1 := (s.setRxStatus s.rxOut .free).rx1
      misuse := s.misuse ||| maskRelease
      obs := (if s.misuse ||| maskRelease = s.misuse then [] else [.misuse (s.misuse ||| maskRelease)]) ++ s.obs
      main := .releaseToggle } := by
  simp only [releaseStart, h, State.setMisuse_eq, State.setRxStatus, State.setRxSlot_eq]
  rfl

/-! ## The step -/

/-- The single SPI commands a raw word can decode to. -/
def isSpiCommand : Instr → Bool
  | .statusRead => true
  | .fifoRead => true
  | .txWrite _ => true
  | .fifoClear => true
  | .fifoAccept => true
  | .pwrReceive _ => true
  | .pwrStandby _ => true
  | .pwrTransmit _ => true
  | .xcvrReset => true
  | _ => false

theorem decodeSpi_isSpiCommand {t : SpiWords} {e : BitVec 2} {w : Word16} {i : Instr} (h : decodeSpi t e w = .ok i) :
    isSpiCommand i = true := by
  unfold decodeSpi at h
  split at h <;> [skip; split at h <;> [skip; split at h <;> [skip; split at h <;> [skip; split at h <;>
    [skip; split at h <;> [skip; skip]]]]]]
  all_goals try (cases h; rfl)
  split at h
  · next j hj =>
    cases h
    obtain ⟨e', ⟨rfl, -⟩ | ⟨rfl, -⟩ | ⟨rfl, -⟩⟩ := decodePower_sound hj <;> rfl
  · cases h

/-- Everything one step can do (R64): wait; MAIN's next micro-step; MAIN's next host command; agent IRQ's turn; a word
on the SPI port. `s'` is the state with the schedule moved on. -/
theorem step_cases {s : State} {o : Host.Outcome State Fault Refusal} (h : step s = o) :
    ∃ rest : List Event, ∃ s' : State, s' = { s with schedule := rest } ∧
      ((operationAt s.main = none ∧ o = .next s') ∨
       (∃ i, operationAt s.main = some i ∧ o = exec i s') ∨
       (∃ c, s.main = .idle ∧ s.schedule = .issue c :: rest ∧ o = exec (decodeHost s.params.pollingBuild c) s') ∨
       (s.schedule = .irq :: rest ∧ o = exec .irqEvent s') ∨
       (∃ w i, s.schedule = .spi w :: rest ∧ decodeSpi s.params.spi s.params.ewb w = .ok i ∧ o = exec i s') ∨
       (∃ w e, s.schedule = .spi w :: rest ∧ decodeSpi s.params.spi s.params.ewb w = .error e ∧
        o = .refused .notAnSpiCommand)) := by
  subst h
  have turn : ∀ rest, (operationAt s.main = none ∧ (match mainTurn { s with schedule := rest } with
        | .wait s' => Host.Outcome.next s'
        | .resume i s' => exec i s'
        | .present e s' => match decode s'.params e with
          | .ok i => exec i s'
          | .error _ => .refused .notAnSpiCommand) = .next { s with schedule := rest }) ∨
      (∃ i, operationAt s.main = some i ∧ (match mainTurn { s with schedule := rest } with
        | .wait s' => Host.Outcome.next s'
        | .resume i s' => exec i s'
        | .present e s' => match decode s'.params e with
          | .ok i => exec i s'
          | .error _ => .refused .notAnSpiCommand) = exec i { s with schedule := rest }) := by
    intro rest
    unfold mainTurn
    rcases hm : operationAt s.main with _ | i
    · exact .inl ⟨rfl, rfl⟩
    · exact .inr ⟨i, rfl, rfl⟩
  unfold step fetch
  rcases hs : s.schedule with _ | ⟨_ | _ | _ | w, rest⟩
  · refine ⟨[], { s with schedule := [] }, rfl, ?_⟩
    have he : s = { s with schedule := [] } := by rw [← hs]
    rw [he]
    rcases turn [] with h | h
    · exact .inl h
    · exact .inr (.inl h)
  · next c =>
    rcases hm : operationAt s.main with _ | i
    · refine ⟨rest, _, rfl, .inr (.inr (.inl ⟨c, ?_, rfl, ?_⟩))⟩
      · revert hm; cases s.main <;> simp [operationAt]
      · simp only [decode]
    · refine ⟨.issue c :: rest, s, by rw [← hs], .inr (.inl ⟨i, rfl, rfl⟩)⟩
  · refine ⟨rest, _, rfl, ?_⟩
    rcases turn rest with h | h
    · exact .inl h
    · exact .inr (.inl h)
  · exact ⟨rest, _, rfl, .inr (.inr (.inr (.inl ⟨rfl, rfl⟩)))⟩
  · refine ⟨rest, _, rfl, .inr (.inr (.inr (.inr ?_)))⟩
    rcases hd : decodeSpi s.params.spi s.params.ewb w with e | i
    · exact .inr ⟨w, e, rfl, hd, by simp only [decode, hd]⟩
    · exact .inl ⟨w, i, rfl, hd, by simp only [decode, hd]⟩

end Sys2Proof.Machine
end

