-- ==== Sys2Proof/Machine/Assembler.lean ====
section
/-! DEFINITION. Host programs as spec/30_encoding.md R88 writes them: one line each, with the three pseudo-operations,
and the host commands a line encodes. No rule of the machine depends on this file. -/

namespace Sys2Proof.Machine

/-- A line of a host program (R88). The constructors are the spec's mnemonics. -/
inductive AsmLine where
  | init
  | enq (type len : Byte)
  | cpenq (type len : Byte) (data : List Byte)
  | wtxp (i v : Byte)
  | poll
  | glen
  | gtype
  | rrxp (i : Byte)
  | rel
  | tick
  | swrst
  | svc
  /-- Pseudo: `send type, [d0, …, dn-1]`. -/
  | send (type : Byte) (data : List Byte)
  /-- Pseudo: `fill i, [v0, …, vk]`. -/
  | fill (i : Byte) (values : List Byte)
  /-- Pseudo: `rxhdr`. -/
  | rxhdr
  deriving DecidableEq, Repr

/-- `wtxp i, v0`, then `wtxp i+1, v1`, and so on. -/
def fillFrom (i : Byte) : List Byte → List Instr
  | [] => []
  | v :: values => .writeTxp i v :: fillFrom (i + 1) values

/-- The operations a line stands for (R88). A `send` of more than 255 bytes, or a `fill` that runs past index 255, has
no encoding and gives none (DEDUCED, log entry 22). -/
def AsmLine.expand : AsmLine → Option (List Instr)
  | .init => some [.init]
  | .enq type len => some [.enqueue type len]
  | .cpenq type len data => some [.copyEnqueue type len data]
  | .wtxp i v => some [.writeTxp i v]
  | .poll => some [.poll]
  | .glen => some [.getLen]
  | .gtype => some [.getType]
  | .rrxp i => some [.readRxp i]
  | .rel => some [.release]
  | .tick => some [.tick]
  | .swrst => some [.swReset]
  | .svc => some [.service]
  | .send type data =>
    if data.length ≤ 255 then some [.copyEnqueue type (BitVec.ofNat 8 data.length) data] else none
  | .fill i values => if i.toNat + values.length ≤ 256 then some (fillFrom i values) else none
  | .rxhdr => some [.poll, .getLen, .getType]

/-- The host command of an operation; none for what is no host operation. -/
def hostCmdOf (p : Params) (i : Instr) : Option HostCmd :=
  match encode p i with
  | .host c => some c
  | _ => none

/-- The host commands of a line, in order. -/
def AsmLine.assemble (p : Params) (line : AsmLine) : Option (List HostCmd) :=
  line.expand.map (·.filterMap (hostCmdOf p))

end Sys2Proof.Machine
end

