-- ==== Sys2Proof/Tests/Slice0.lean ====
section
/-! SUPPORT. Tests. Expected results come from spec/95_test_vectors.md (the vector is named) or from the rule named.
Then, for every statement that has hypotheses, a concrete state and operands that meet them. -/

namespace Sys2Proof.Tests

open Sys2Proof Sys2Proof.Machine

/-! ## States -/

/-- The configuration TC of spec/95_test_vectors.md. -/
def tc : Params where
  rxBufferSize    := 8
  txBufferSize    := 16
  channelFreeTime := 3
  trailingByte    := false
  sync0           := 0x2D
  sync1           := 0xD4
  preamble        := 0xAA
  dummy           := 0xAA
  tickRecheck     := true
  pollingBuild    := false
  auxWakeup       := false
  auxLowbat       := false
  configSeq       := []
  resetDelayMs    := 150
  spi             := defaultSpiWords
  bits            := defaultStatusBits
  tickPeriodMs    := 20

/-- P0: power-on under TC. -/
def p0 : State := State.powerOn tc
/-- I0: after INIT. -/
def i0 : State := { p0 with ie := true }
/-- OCC: the frame of vector 1.3 row 1 is queued. -/
def occ : State :=
  { i0 with txStatus := .occupied, txFrame := [(2, 0x02), (3, 0x10), (4, 0xED), (5, 0x41), (6, 0x42)] }
/-- R1: the frame 02 10 ED 41 42 received. -/
def r1 : State :=
  { i0 with
    rx0 := { status := .complete, cells := [(0, 0x02), (1, 0x10), (2, 0xED), (3, 0x41), (4, 0x42)] }
    rxIn := 1, byteCount := 5, totalBytes := 5, rxChecksum := 0xFC }
/-- Both slots COMPLETE. -/
def full : State := { r1 with rxIn := 0, rx1 := { status := .complete, cells := [(0, 0), (1, 7), (2, 0xF8)] } }
/-- RX_ACTIVE before byte `k` of the frame 02 10 ED 41 42. -/
def active (k : Word16) (sum : Byte) (cells : Memory) : State :=
  { i0 with
    linkState := .rxActive, byteCount := k, totalBytes := 5, rxChecksum := sum
    rx0 := { status := .free, cells := cells } }
/-- TX before byte `k` of the frame of OCC. -/
def sending (k : Word16) : State := { occ with linkState := .tx, byteCount := k, totalBytes := 7 }
/-- A state in front of transceiver answers. -/
def answers (s : State) (status : List Word16) (fifo : List Byte) : State :=
  { s with statusAnswers := status, fifoAnswers := fifo }
/-- The same state in a polling build. -/
def polling (s : State) : State := { s with params := { s.params with pollingBuild := true } }

/-- The outcome is a next state with the property. -/
def gives (o : Host.Outcome State Fault Refusal) (P : State → Bool) : Bool :=
  match o with
  | .next t => P t
  | _ => false

/-- The next state, for use where there is one. -/
def nextOf (o : Host.Outcome State Fault Refusal) : State :=
  match o with
  | .next t => t
  | _ => p0

/-- The words of the SPI trace, oldest first. -/
def words (s : State) : List Word16 :=
  (s.obs.filterMap fun
    | .spi _ w _ => some w
    | _ => none).reverse

/-! ## WellFormed: each check refuses an ill-formed term -/

theorem test_wf_tc : tc.wf = true := by decide
theorem test_wf_copyEnqueue_length : Instr.wellFormed tc (.copyEnqueue 0x10 2 [0x41]) = false := by decide
theorem test_wf_service_without_polling : Instr.wellFormed tc .service = false := by decide
theorem test_wf_illegal_of_legal_word : Instr.wellFormed tc (.illegal 0x00000009 none) = false := by decide
theorem test_wf_auxWords_reserved : Instr.wellFormed tc (.auxWords [0x8201, 0xB8AA]) = false := by decide
theorem test_wf_configSeq_reserved :
    Instr.wellFormed { tc with configSeq := [.word 0xCA81] } .configSeq = false := by decide
theorem test_wf_params_rxBuffer : Params.wf { tc with rxBufferSize := 0 } = false := by decide
theorem test_wf_params_rxBuffer_high : Params.wf { tc with rxBufferSize := 256 } = false := by decide
theorem test_wf_params_txBuffer : Params.wf { tc with txBufferSize := 0 } = false := by decide
theorem test_wf_params_delay : Params.wf { tc with resetDelayMs := 149 } = false := by decide
theorem test_wf_params_configSeq : Params.wf { tc with configSeq := [.word 0xFE00] } = false := by decide
theorem test_wf_params_words_equal :
    Params.wf { tc with spi := { defaultSpiWords with fifoClear := 0xCA83 } } = false := by decide
theorem test_wf_params_word_is_txWrite :
    Params.wf { tc with spi := { defaultSpiWords with xcvrReset := 0xB8FE } } = false := by decide
theorem test_wf_params_bits : Params.wf { tc with bits := { defaultStatusBits with rssi := 15 } } = false := by decide

/-! R78, one command for each case. -/

theorem test_illegal_a : illegalHost false { word := 0x0000000C, data := none } = true := by decide
theorem test_illegal_b : illegalHost false { word := 0x0000000B, data := none } = true := by decide
theorem test_illegal_c0 : illegalHost false { word := 0x00000010, data := none } = true := by decide
theorem test_illegal_c1 : illegalHost false { word := 0x80000009, data := none } = true := by decide
theorem test_illegal_d : illegalHost false { word := 0x00040009, data := none } = true := by decide
theorem test_illegal_d_rrxp : illegalHost false { word := 0x00010007, data := none } = true := by decide
theorem test_illegal_e : illegalHost false { word := 0x00021002, data := some [0x41] } = true := by decide
theorem test_illegal_e_absent : illegalHost false { word := 0x00021002, data := none } = true := by decide
theorem test_illegal_f : illegalHost false { word := 0x00021001, data := some [0x41, 0x42] } = true := by decide

/-! ## Decoding: every constructor that has a word, the word written from R75, R77 and R82 (spec/95 2.1, TC) -/

theorem test_decode_init : decodeHost false { word := 0x00000000, data := none } = .init := by decide
theorem test_decode_enqueue : decodeHost false { word := 0x00021001, data := none } = .enqueue 0x10 2 := by decide
theorem test_decode_copyEnqueue :
    decodeHost false { word := 0x00021002, data := some [0x41, 0x42] } = .copyEnqueue 0x10 2 [0x41, 0x42] := by decide
theorem test_decode_writeTxp : decodeHost false { word := 0x00420103, data := none } = .writeTxp 1 0x42 := by decide
theorem test_decode_poll : decodeHost false { word := 0x00000004, data := none } = .poll := by decide
theorem test_decode_getLen : decodeHost false { word := 0x00000005, data := none } = .getLen := by decide
theorem test_decode_getType : decodeHost false { word := 0x00000006, data := none } = .getType := by decide
theorem test_decode_readRxp : decodeHost false { word := 0x00000107, data := none } = .readRxp 1 := by decide
theorem test_decode_release : decodeHost false { word := 0x00000008, data := none } = .release := by decide
theorem test_decode_tick : decodeHost false { word := 0x00000009, data := none } = .tick := by decide
theorem test_decode_swReset : decodeHost false { word := 0x0000000A, data := none } = .swReset := by decide
theorem test_decode_service : decodeHost true { word := 0x0000000B, data := none } = .service := by decide
theorem test_decode_illegal :
    decodeHost false { word := 0x0000000F, data := none } = .illegal 0x0000000F none := by decide
theorem test_decode_event : decode tc .event = .ok .irqEvent := by decide
theorem test_decode_statusRead : decodeSpi defaultSpiWords 0 0b0000000000000000 = .ok .statusRead := by decide
theorem test_decode_fifoRead : decodeSpi defaultSpiWords 0 0b1011000000000000 = .ok .fifoRead := by decide
theorem test_decode_txWrite : decodeSpi defaultSpiWords 0 0b1011100000101101 = .ok (.txWrite 0x2D) := by decide
theorem test_decode_fifoClear : decodeSpi defaultSpiWords 0 0b1100101010000001 = .ok .fifoClear := by decide
theorem test_decode_fifoAccept : decodeSpi defaultSpiWords 0 0b1100101010000011 = .ok .fifoAccept := by decide
theorem test_decode_pwrReceive : decodeSpi defaultSpiWords 2 0b1000001010000101 = .ok (.pwrReceive 2) := by decide
theorem test_decode_pwrStandby : decodeSpi defaultSpiWords 0 0b1000001000000001 = .ok (.pwrStandby 0) := by decide
theorem test_decode_pwrTransmit : decodeSpi defaultSpiWords 3 0b1000001000100111 = .ok (.pwrTransmit 3) := by decide
/-- R83: in a build with EWB 0 whose words are distinct, its own PWR_STANDBY word has its own name, though it is the
word PWR_RECEIVE has under another EWB. -/
theorem test_decode_own_power_word :
    let t := { defaultSpiWords with pwrReceive := 0x8201, pwrStandby := 0x8203 }
    t.distinct 0 = true ∧ t.decodable = false ∧ decodeSpi t 0 0x8203 = .ok (.pwrStandby 0) ∧
      decodeSpi t 0 0x8201 = .ok (.pwrReceive 0) := by decide
/-- Log entry 23: a power word of another EWB. -/
theorem test_decode_other_power_word : decodeSpi defaultSpiWords 0 0x8287 = .ok (.pwrReceive 3) := by decide
theorem test_decode_xcvrReset : decodeSpi defaultSpiWords 0 0b1111111000000000 = .ok .xcvrReset := by decide
theorem test_decode_rejects_unknown_word :
    decodeSpi defaultSpiWords 0 0x80D7 = .error (.notAnSpiCommand 0x80D7) := by decide
theorem test_decode_rejects_sequence : decode tc (.seq []) = .error .sequenceNotFixed := by decide
theorem test_decodeTable_host : decodeTableWord 32 0x00420103 = some (.writeTxp 1 0x42) := by decide
theorem test_decodeTable_spi : decodeTableWord 16 0xB8AA = some (.txWrite 0xAA) := by decide
theorem test_fetch_table_word : gives (step (p0.withFetchWord 32 0x00000004)) (·.hostRes = some 0x0200) = true := by
  decide
theorem test_fetch_table_spi_word : gives (step (p0.withFetchWord 16 0xFE00)) (words · = [0xFE00]) = true := by decide

/-! ## Host program lines (R88, the words of P1 and P2) -/

theorem test_assemble_fill :
    (AsmLine.fill 0 [0x41, 0x42]).assemble tc =
      some [{ word := 0x00410003, data := none }, { word := 0x00420103, data := none }] := by decide
theorem test_assemble_send :
    (AsmLine.send 0x10 [0x41, 0x42]).assemble tc = some [{ word := 0x00021002, data := some [0x41, 0x42] }] := by decide
theorem test_assemble_rxhdr :
    AsmLine.rxhdr.assemble tc = some [{ word := 0x00000004, data := none }, { word := 0x00000005, data := none },
      { word := 0x00000006, data := none }] := by decide
theorem test_assemble_fill_past_255 : (AsmLine.fill 255 [0x41, 0x42]).assemble tc = none := by decide

/-! ## One step of each instruction -/

/-- V-SYS-1, m1. -/
theorem test_init_masks : gives (exec .init i0) (fun t => !t.ie && t.main = .initBody) = true := by decide
/-- V-SYS-4, m2. -/
theorem test_init_discards_transmission :
    gives (exec .init { sending 3 with main := .initBody, ie := false })
      (fun t => t.linkState = .rxIdle && t.txStatus = .free && t.byteCount = 0 && t.ie
        && words t = [0x8281, 0xCA81, 0xCA83]) = true := by decide
/-- V-TX-1. -/
theorem test_enqueue_header :
    gives (exec (.enqueue 0x10 2) i0)
      (fun t => t.txFrame = [(2, 0x02), (3, 0x10), (4, 0xED)] && t.hostRes = some 0x0100) = true := by decide
/-- V-TX-5: OCCUPIED before ERROR. -/
theorem test_enqueue_occupied_first :
    gives (exec (.enqueue 1 17) occ) (fun t => t.hostRes = some 0x0101 && t.txFrame = occ.txFrame) = true := by decide
/-- V-TX-14. -/
theorem test_copyEnqueue_keeps_payload_above :
    gives (exec (.copyEnqueue 1 2 [0xA0, 0xA1]) { i0 with txFrame := [(8, 0x33)] })
      (·.txFrame = [(2, 0x02), (3, 0x01), (4, 0xFC), (5, 0xA0), (6, 0xA1), (8, 0x33)]) = true := by decide
/-- V-TX-8. -/
theorem test_copyEnqueue_too_long :
    gives (exec (.copyEnqueue 1 17 (List.replicate 17 0)) i0)
      (fun t => t.hostRes = some 0x0102 && t.txFrame = []) = true := by decide
/-- V-TX-12. -/
theorem test_writeTxp_while_occupied :
    gives (exec (.writeTxp 1 0x99) occ)
      (fun t => t.misuse = 0x08 && t.txCell 6 = some 0x99 && t.hostRes = some 0x0000) = true := by decide
/-- V-TX-13. -/
theorem test_writeTxp_index_first :
    gives (exec (.writeTxp 16 0x99) occ)
      (fun t => t.misuse = 0x02 && t.txFrame = occ.txFrame && t.hostRes = some 0xFE10) = true := by decide
/-- V-RXH-2. -/
theorem test_poll_complete : gives (exec .poll r1) (·.hostRes = some 0x0201) = true := by decide
/-- V-RXH-3. -/
theorem test_getLen : gives (exec .getLen r1) (·.hostRes = some 0x0302) = true := by decide
/-- V-RXH-14: an UNSPEC cell is one draw. -/
theorem test_getLen_unspec : gives (exec .getLen p0) (fun t => t.draws = 1 && t.rx0 = p0.rx0) = true := by decide
/-- V-RXH-4. -/
theorem test_getType : gives (exec .getType r1) (·.hostRes = some 0x0310) = true := by decide
/-- V-RXH-6. -/
theorem test_readRxp : gives (exec (.readRxp 1) r1) (·.hostRes = some 0x0342) = true := by decide
/-- V-RXH-9. -/
theorem test_readRxp_bad_index :
    gives (exec (.readRxp 8) r1) (fun t => t.hostRes = some 0xFE08 && t.misuse = 0x02) = true := by decide
/-- V-RXH-13, m1. -/
theorem test_release_misuse :
    gives (exec .release p0) (fun t => t.misuse = 0x04 && t.rx0.status = .free && t.rxOut = 0) = true := by decide
/-- V-RXH-11, m2. -/
theorem test_release_toggles :
    gives (exec .release { r1 with main := .releaseToggle }) (fun t => t.rxOut = 1 && t.hostRes = some 0) = true := by
  decide
/-- V-TK-9, T2. -/
theorem test_tick_counts :
    gives (exec .tick { occ with freeCount := 2, main := .tickDecide 0x0000 })
      (fun t => t.freeCount = 1 && t.main = .idle && t.hostRes = some 0) = true := by decide
/-- V-TK-7, T3. -/
theorem test_tick_starts :
    gives (exec .tick { occ with freeCount := 0, main := .tickStart })
      (fun t => t.linkState = .tx && t.totalBytes = 7 && words t = [0x8201, 0xB8AA, 0xB8AA, 0x8221]) = true := by
  decide
/-- V-SYS-7, m2. -/
theorem test_swReset_sends_one_word :
    gives (exec .swReset { p0 with main := .swResetBody })
      (fun t => t.ie && t.obs = [.result .swReset 0, .ie true, .delay 150, .spi .xcvrReset 0xFE00 none, .delay 150])
      = true := by decide
/-- V-SYS-10. -/
theorem test_service_accepts :
    gives (exec .service (answers (polling i0) [0x8000] [0x02]))
      (fun t => t.linkState = .rxActive && t.byteCount = 1 && t.totalBytes = 5 && words t = [0x0000, 0xB000]
        && t.hostRes = some 0) = true := by decide
/-- R143. -/
theorem test_illegal : gives (exec (.illegal 0x0000000C none) p0)
    (fun t => t.misuse = 0x01 && t.hostRes = some 0xFF00 && !t.ie) = true := by decide
/-- V-RX-1, invocation 5. -/
theorem test_irq_completes :
    gives (exec .irqEvent (answers (active 4 0xBE [(0, 0x02), (1, 0x10), (2, 0xED), (3, 0x41)]) [0x8000] [0x42]))
      (fun t => t.rx0 = r1.rx0 && t.rxIn = 1 && t.rxChecksum = 0xFC && t.byteCount = 5 && t.linkState = .rxIdle
        && words t = [0x0000, 0xB000, 0xCA81, 0xCA83]) = true := by decide
/-- V-TXI-1, invocation 8. -/
theorem test_irq_ends_transmission :
    gives (exec .irqEvent (answers (sending 7) [0x8000] []))
      (fun t => t.txStatus = .free && t.linkState = .rxIdle && t.byteCount = 7
        && words t = [0x0000, 0x8281, 0xB8AA, 0xCA81, 0xCA83]) = true := by decide
/-- R128. -/
theorem test_statusRead :
    gives (exec .statusRead (answers i0 [0x0100] [])) (·.obs = [.spi .statusRead 0x0000 (some 0x0100)]) = true := by
  decide
/-- R129. -/
theorem test_fifoRead :
    gives (exec .fifoRead (answers i0 [] [0x05])) (·.obs = [.spi .fifoRead 0xB000 (some 0x0005)]) = true := by decide
/-- R130. -/
theorem test_txWrite : gives (exec (.txWrite 0x2D) i0) (words · = [0xB82D]) = true := by decide
/-- R131. -/
theorem test_fifoClear : gives (exec .fifoClear i0) (words · = [0xCA81]) = true := by decide
/-- R131. -/
theorem test_fifoAccept : gives (exec .fifoAccept i0) (words · = [0xCA83]) = true := by decide
/-- R132, V-TXI-5. -/
theorem test_pwrReceive : gives (exec (.pwrReceive 3) i0) (words · = [0x8287]) = true := by decide
/-- V-TXI-5, each AUX flag alone: the words after STATUS_READ. -/
theorem test_txDone_auxWakeup :
    words (State.txDone { sending 7 with params := { tc with auxWakeup := true } }) =
      [0x8283, 0xB8AA, 0xCA81, 0xCA83] := by decide
/-- V-TXI-5. -/
theorem test_txDone_auxLowbat :
    words (State.txDone { sending 7 with params := { tc with auxLowbat := true } }) =
      [0x8285, 0xB8AA, 0xCA81, 0xCA83] := by decide
/-- R133. -/
theorem test_pwrStandby : gives (exec (.pwrStandby 0) i0) (words · = [0x8201]) = true := by decide
/-- R134. -/
theorem test_pwrTransmit : gives (exec (.pwrTransmit 0) i0) (words · = [0x8221]) = true := by decide
/-- R135. -/
theorem test_xcvrReset : gives (exec .xcvrReset i0) (words · = [0xFE00]) = true := by decide
/-- V-SYS-6. -/
theorem test_configSeq :
    gives (exec .configSeq { i0 with params := { tc with configSeq := [.word 0x80D7, .delay 5] } })
      (·.obs = [.delay 5, .spi .configSeq 0x80D7 none]) = true := by decide
/-- R137. -/
theorem test_auxWords : gives (exec (.auxWords [0x8201, 0x8203]) i0) (words · = [0x8201, 0x8203]) = true := by decide
/-- R137: of one word of each forbidden command and one other, AuxHandler's list keeps the other. -/
theorem test_auxAllowed :
    auxAllowed defaultSpiWords [0x0000, 0xB000, 0xB8AA, 0x8203, 0xCA81, 0xCA83, 0xFE00] = [0x8203] := by decide
/-- R104: with an AUX flag set, two invocations take AUX_INIT through AuxHandler twice. -/
theorem test_auxState_handled :
    let p := { tc with auxWakeup := true }
    (auxResult p 0x0400 (auxResult p 0x1000 i0.auxState).2).2.value =
      (Config.auxHandler 0x0400 (Config.auxHandler 0x1000 Config.auxInit).2).2 := by rfl
/-- R42: with both AUX flags 0 AUX_STATE stays. -/
theorem test_auxState_unchanged : (i0.auxDispatch 0x1400).auxState = i0.auxState := by decide
/-- A word that is no command is refused by name (R126). -/
theorem test_unknown_spi_word_refused :
    (match step { i0 with schedule := [.spi 0x80D7] } with
      | .refused r => decide (r = .notAnSpiCommand)
      | _ => false) = true := by decide

/-! ## A state and operands that meet the hypotheses of each statement

Where a statement has several clauses, one for each; where a hypothesis has a bound, the boundary. -/

theorem witness_DecodeOfEncodeIsIdentity :
    tc.spi.distinct tc.ewb = true ∧ tc.spi.decodable = true ∧
      Instr.wellFormed tc (.copyEnqueue 0xFF 0 []) = true ∧
      Instr.wellFormed tc (.illegal 0xFFFFFFFF none) = true ∧ Instr.wellFormed tc (.pwrTransmit 3) = true ∧
      (Instr.pwrTransmit 3 ≠ .configSeq) ∧ (∀ ws, Instr.pwrTransmit 3 ≠ .auxWords ws) ∧
      (∀ e, Instr.pwrStandby 0 = .pwrReceive e ∨ Instr.pwrStandby 0 = .pwrStandby e ∨
        Instr.pwrStandby 0 = .pwrTransmit e → e = tc.ewb) :=
  ⟨by decide, by decide, by decide, by decide, by decide, by decide, (fun _ h => by cases h), fun e h => by
    rcases h with h | h | h <;> cases h
    decide⟩

theorem witness_SpiDecodeGivesBackTheWord :
    decodeSpi tc.spi tc.ewb 0x8287 = .ok (.pwrReceive 3) ∧ decodeSpi tc.spi tc.ewb 0xB8FF = .ok (.txWrite 0xFF) := by decide

theorem witness_StepRunsDecodedInstruction_host :
    ({ i0 with schedule := [.issue tickCmd] } : State).main = .idle ∧
      ({ i0 with schedule := [.issue tickCmd] } : State).schedule = .issue tickCmd :: [] := by decide

theorem witness_StepRunsDecodedInstruction_irq :
    ({ i0 with schedule := [.irq, .proceed] } : State).schedule = .irq :: [.proceed] := by decide

theorem witness_StepRunsDecodedInstruction_spi :
    ({ i0 with schedule := [.spi 0xB82D] } : State).schedule = .spi 0xB82D :: [] ∧
      decodeSpi i0.params.spi i0.params.ewb 0xB82D = .ok (.txWrite 0x2D) := by decide

theorem witness_OperationInProgressGoesOnFirst :
    operationAt ({ i0 with main := .tickStart } : State).main = some .tick ∧ i0.schedule = [] ∧
      ({ i0 with main := .releaseToggle, schedule := [.issue initCmd] } : State).schedule = .issue initCmd :: [] ∧
      operationAt ({ i0 with main := .initBody, schedule := [.proceed] } : State).main = some .init ∧
      ({ i0 with main := .initBody, schedule := [.proceed] } : State).schedule = .proceed :: [] := by decide

theorem witness_BlockWaitsForTheHost : p0.main = .idle ∧ p0.schedule = [] := by decide

theorem witness_InitAndSwResetMaskInterruptFirst : i0.main ≠ .initBody ∧ i0.main ≠ .swResetBody := by decide

theorem witness_InitBodyResetsLinkState : ({ sending 3 with main := .initBody } : State).main = .initBody := by decide

theorem witness_SecondInitChangesNothing : r1.main = .idle := by decide

theorem witness_SwResetWritesOnlyInterruptEnable :
    ({ sending 3 with main := .swResetBody } : State).main = .swResetBody := by decide

/-- Lengths 0 and TX_BUFFER_SIZE. -/
theorem witness_EnqueueWritesHeader :
    i0.txStatus = .free ∧ (0 : Byte).toNat ≤ i0.params.txBufferSize ∧ (16 : Byte).toNat ≤ i0.params.txBufferSize := by
  decide

/-- TX_BUFFER_SIZE + 1 and 255, for both operations. -/
theorem witness_FailedEnqueueChangesNothing :
    occ.txStatus = .occupied ∧ i0.txStatus = .free ∧ i0.params.txBufferSize < (17 : Byte).toNat ∧
      i0.params.txBufferSize < (255 : Byte).toNat ∧ (List.replicate 17 (0 : Byte)).length = (17 : Byte).toNat := by
  decide

theorem witness_CopyEnqueueCopiesThenQueues :
    ([] : List Byte).length = (0 : Byte).toNat ∧ (List.replicate 16 (7 : Byte)).length = (16 : Byte).toNat ∧
      i0.txStatus = .free ∧ (16 : Byte).toNat ≤ i0.params.txBufferSize := by decide

theorem witness_WriteTxpWritesOneCell :
    (0 : Byte).toNat < occ.params.txBufferSize ∧ (15 : Byte).toNat < occ.params.txBufferSize ∧
      occ.txStatus = .occupied ∧ i0.txStatus = .free := by decide

theorem witness_BadIndexTouchesNoCell :
    r1.params.rxBufferSize ≤ (8 : Byte).toNat ∧ r1.params.txBufferSize ≤ (16 : Byte).toNat := by decide

theorem witness_PollReturnsOutSlotStatus :
    (p0.rxSlot p0.rxOut).status = .free ∧ (r1.rxSlot r1.rxOut).status = .complete := by decide

/-- Offsets 0 and 1, and the payload's first cell. -/
theorem witness_AccessorsReturnOutSlotBytes :
    r1.rxCell r1.rxOut 0 = some 0x02 ∧ r1.rxCell r1.rxOut 1 = some 0x10 ∧
      (0 : Byte).toNat < r1.params.rxBufferSize ∧ r1.rxCell r1.rxOut (3 + (0 : Byte).toNat) = some 0x41 := by decide

/-- Offsets 0 and 1 at power-on, and the payload's last cell. -/
theorem witness_AccessorsOnUnspecCellDraw :
    p0.rxCell p0.rxOut 0 = none ∧ p0.rxCell p0.rxOut 1 = none ∧
      (7 : Byte).toNat < r1.params.rxBufferSize ∧ r1.rxCell r1.rxOut (3 + (7 : Byte).toNat) = none := by decide

theorem witness_ReleaseFreesOutSlot : r1.main ≠ .releaseToggle ∧ p0.main ≠ .releaseToggle := by decide

theorem witness_ReleaseAdvancesOutPointer :
    ({ r1 with main := .releaseToggle } : State).main = .releaseToggle := by decide

theorem witness_IllegalCommandOnlyRecordsMisuse :
    p0.main = .idle ∧ ({ p0 with schedule := [.issue { word := 0x0000000C, data := none }] } : State).schedule =
        .issue { word := 0x0000000C, data := none } :: [] ∧
      illegalHost p0.params.pollingBuild { word := 0x0000000C, data := none } = true := by decide

theorem witness_MaskedInterruptDoesNotStep :
    p0.ie = false ∧ (polling i0).params.pollingBuild = true := by decide

/-! The handler statements: in each, the interrupt form (IE = 1, no polling build) and the SERVICE form. -/

/-- Both AUX flags are 0 in `s`, and one is set in `u`. -/
theorem witness_NoFifoFlagTouchesNoFrameState :
    let s := answers (sending 3) [0x0000] []
    let u := { s with params := { tc with auxLowbat := true } }
    (u.params.auxWakeup = true ∨ u.params.auxLowbat = true) ∧ s.params.auxWakeup = false ∧ s.params.auxLowbat = false ∧
      ffit s.params (statusAnswerOf s) = false ∧ s.ie = true ∧ s.params.pollingBuild = false ∧
      (polling s).params.pollingBuild = true := by decide

theorem witness_IdleAcceptsLengthByte :
    let s := answers i0 [0x8000] [0xFF]
    ffit s.params (statusAnswerOf s) = true ∧ s.linkState = .rxIdle ∧ (s.rxSlot s.rxIn).status = .free ∧
      s.ie = true ∧ s.params.pollingBuild = false ∧ (polling s).params.pollingBuild = true := by decide

theorem witness_IdleDropsWhenNoFreeSlot :
    let s := answers full [0x8000] [0x05]
    ffit s.params (statusAnswerOf s) = true ∧ s.linkState = .rxIdle ∧ (s.rxSlot s.rxIn).status = .complete ∧
      s.ie = true ∧ s.params.pollingBuild = false := by decide

/-- The header check passes at index 2; index 3 is the last before the frame's end. -/
theorem witness_ActiveReceptionContinues :
    let s := answers (active 2 0x12 [(0, 0x02), (1, 0x10)]) [0x8000] [0xED]
    let u := answers (active 3 0xFF [(0, 0x02), (1, 0x10), (2, 0xED)]) [0x8000] [0x41]
    ffit s.params (statusAnswerOf s) = true ∧ s.linkState = .rxActive ∧
      (s.byteCount = 2 → s.rxChecksum ^^^ fifoAnswerOf s = 0xFF) ∧ s.byteCount.toNat + 1 < s.totalBytes.toNat ∧
      ffit u.params (statusAnswerOf u) = true ∧ u.linkState = .rxActive ∧
      (u.byteCount = 2 → u.rxChecksum ^^^ fifoAnswerOf u = 0xFF) ∧ u.byteCount.toNat + 1 < u.totalBytes.toNat ∧
      s.ie = true ∧ s.params.pollingBuild = false := by decide

theorem witness_BadHeaderChecksumAborts :
    let s := answers (active 2 0x13 [(0, 0x02), (1, 0x11)]) [0x8000] [0xED]
    ffit s.params (statusAnswerOf s) = true ∧ s.linkState = .rxActive ∧ s.byteCount = 2 ∧
      s.rxChecksum ^^^ fifoAnswerOf s ≠ 0xFF ∧ s.ie = true ∧ s.params.pollingBuild = false := by decide

theorem witness_LastByteCompletesFrame :
    let s := answers (active 4 0xBE [(0, 0x02), (1, 0x10), (2, 0xED), (3, 0x41)]) [0x8000] [0x42]
    ffit s.params (statusAnswerOf s) = true ∧ s.linkState = .rxActive ∧
      (s.byteCount = 2 → s.rxChecksum ^^^ fifoAnswerOf s = 0xFF) ∧ s.byteCount.toNat + 1 = s.totalBytes.toNat ∧
      s.ie = true ∧ s.params.pollingBuild = false := by decide

/-- The first byte, the last byte, and (the frame of OCC has no cell 7) an UNSPEC trailing byte. -/
theorem witness_TransmitSendsNextFrameByte :
    let s := answers (sending 0) [0x8000] []
    let u := answers (sending 6) [0x8000] []
    let v := { answers (sending 7) [0x8000] [] with params := { tc with trailingByte := true }, totalBytes := 8 }
    ffit s.params (statusAnswerOf s) = true ∧ s.linkState = .tx ∧ s.byteCount.toNat < s.totalBytes.toNat ∧
      s.byteCount.toNat < s.params.txOverhead + s.params.txBufferSize ∧ s.txCell s.byteCount.toNat = some 0x2D ∧
      u.byteCount.toNat < u.totalBytes.toNat ∧ u.txCell u.byteCount.toNat = some 0x42 ∧
      v.byteCount.toNat < v.totalBytes.toNat ∧ v.txCell v.byteCount.toNat = none ∧
      s.ie = true ∧ s.params.pollingBuild = false := by decide

theorem witness_TransmitEndFreesSlot :
    let s := answers (sending 7) [0x8000] []
    ffit s.params (statusAnswerOf s) = true ∧ s.linkState = .tx ∧ s.byteCount = s.totalBytes ∧
      s.ie = true ∧ s.params.pollingBuild = false := by decide

theorem witness_TickBusyCheck :
    (sending 3).main = .idle ∧ (sending 3).linkState ≠ .rxIdle ∧ (active 1 0x02 []).linkState ≠ .rxIdle ∧
      i0.main = .idle ∧ i0.linkState = .rxIdle := by decide

theorem witness_TickSamplesCarrierMasked :
    ({ p0 with main := .tickSample } : State).main = .tickSample := by decide

/-- A carrier; a clear sample at FREE_COUNT 1 and 0 with a frame waiting, at 1 with none, and at 2. -/
theorem witness_TickCountsClearSamples :
    ({ occ with main := .tickDecide 0x0100 } : State).main = .tickDecide 0x0100 ∧ rssi tc 0x0100 = true ∧
      rssi tc 0x0000 = false ∧ (0 : Byte).toNat = (1 : Byte).toNat - 1 ∧ (0 : Byte).toNat = (0 : Byte).toNat - 1 ∧
      occ.txStatus = .occupied ∧ i0.txStatus = .free ∧ (1 : Byte).toNat = (2 : Byte).toNat - 1 ∧ (1 : Byte) ≠ 0 := by
  decide

theorem witness_TickRecheckYieldsToReception :
    let s := { active 1 0x02 [(0, 0x02)] with main := .tickStart }
    s.main = .tickStart ∧ s.params.tickRecheck = true ∧ s.linkState ≠ .rxIdle := by decide

/-- With the recheck in RX_IDLE, and without it in RX_ACTIVE. -/
theorem witness_TickStartsTransmission :
    let s := { occ with main := .tickStart }
    let u := { s with params := { tc with tickRecheck := false }, linkState := .rxActive }
    s.main = .tickStart ∧ (s.params.tickRecheck = true → s.linkState = .rxIdle) ∧ s.txCell 2 = some 0x02 ∧
      u.main = .tickStart ∧ (u.params.tickRecheck = true → u.linkState = .rxIdle) ∧ i0.txCell 2 = none := by decide

/-- Two TICKs on a clear channel, with a frame waiting. -/
def twoTicks : State := { answers occ [0x0000, 0x0000] [] with schedule := [.issue tickCmd, .issue tickCmd] }

theorem witness_DebounceHoldsTransmissionBack :
    twoTicks.main = .idle ∧ twoTicks.linkState = .rxIdle ∧ 2 < twoTicks.freeCount.toNat ∧
      twoTicks.schedule = List.replicate 2 (.issue tickCmd) ∧ 2 ≤ twoTicks.statusAnswers.length ∧
      ∀ S ∈ twoTicks.statusAnswers.take 2, rssi twoTicks.params S = false :=
  ⟨by decide, by decide, by decide, by decide, by decide, fun S h => by
    have : S = 0x0000 := by simpa [twoTicks, answers] using h
    subst this
    decide⟩

theorem witness_TransferPutsTheWordOnThePort :
    decodeSpi i0.params.spi i0.params.ewb 0x0000 = .ok .statusRead ∧ decodeSpi i0.params.spi i0.params.ewb 0xB000 = .ok .fifoRead ∧
      decodeSpi i0.params.spi i0.params.ewb 0xB800 = .ok (.txWrite 0) ∧ decodeSpi i0.params.spi i0.params.ewb 0xB8FF = .ok (.txWrite 0xFF) ∧
      decodeSpi i0.params.spi i0.params.ewb 0xCA81 = .ok .fifoClear ∧ decodeSpi i0.params.spi i0.params.ewb 0xCA83 = .ok .fifoAccept ∧
      decodeSpi i0.params.spi i0.params.ewb 0x8281 = .ok (.pwrReceive 0) ∧ decodeSpi i0.params.spi i0.params.ewb 0x8201 = .ok (.pwrStandby 0) ∧
      decodeSpi i0.params.spi i0.params.ewb 0x8221 = .ok (.pwrTransmit 0) ∧ decodeSpi i0.params.spi i0.params.ewb 0xFE00 = .ok .xcvrReset := by
  decide

/-! Invariants: a state that meets the invariant and takes a step to a next state. -/

/-- A reception about to complete, with an interrupt due. -/
def due : State :=
  { answers (active 4 0xBE [(0, 0x02), (1, 0x10), (2, 0xED), (3, 0x41)]) [0x8000] [0x42] with schedule := [.irq] }

theorem due_steps : step due = .next (nextOf (step due)) := by rfl

theorem witness_StepKeepsLinkInvariant : LinkInv due ∧ step due = .next (nextOf (step due)) := ⟨by decide, due_steps⟩

/-- TX at both ends of the frame, and TICK at each position, meet the link invariant. -/
theorem witness_LinkInv_shapes :
    LinkInv (sending 0) ∧ LinkInv (sending 7) ∧ LinkInv { occ with main := .tickStart, freeCount := 0 } ∧
      LinkInv { i0 with main := .tickSample } ∧ LinkInv { p0 with main := .initBody } :=
  ⟨by decide, by decide, by decide, by decide, by decide⟩

theorem witness_StepKeepsRingInvariant :
    LinkInv due ∧ RingInv due ∧ step due = .next (nextOf (step due)) := ⟨by decide, by decide, due_steps⟩

/-- Two, one and no COMPLETE slots, and RELEASE between its micro-steps. -/
theorem witness_RingInv_shapes :
    RingInv full ∧ RingInv r1 ∧ RingInv p0 ∧
      RingInv { full with main := .releaseToggle, rx0 := { full.rx0 with status := .free } } :=
  ⟨by decide, by decide, by decide, by decide⟩

theorem witness_StepKeepsMemoryCanonical : MemInv due ∧ step due = .next (nextOf (step due)) := ⟨by decide, due_steps⟩

theorem witness_StepKeepsFreeCountBounded :
    due.freeCount.toNat ≤ due.params.channelFreeTime.toNat ∧ step due = .next (nextOf (step due)) :=
  ⟨by decide, due_steps⟩

theorem witness_MisuseBitsAreSticky : step due = .next (nextOf (step due)) ∧ due.misuse &&& 0xF0 = 0 :=
  ⟨due_steps, by decide⟩

theorem witness_ParametersNeverChange : step due = .next (nextOf (step due)) := due_steps

theorem witness_InterruptOffOnlyInsideInitOrSwReset :
    due.ie = true ∧ step due = .next (nextOf (step due)) ∧
      insideMasked ({ p0 with main := .initBody } : State).main = true := ⟨by decide, due_steps, by decide⟩

theorem witness_StepNeverStops :
    let s := { i0 with schedule := [.spi 0x8201] }
    LinkInv s ∧ ∀ w rest, s.schedule = .spi w :: rest → ∃ i, decodeSpi s.params.spi s.params.ewb w = .ok i := by
  refine ⟨by decide, fun w rest h => ⟨.pwrStandby 0, ?_⟩⟩
  cases h
  decide

theorem witness_EveryRunGoesOnWithinTheInvariants :
    linkOnly [.issue initCmd, .proceed, .irq, .issue tickCmd] = true := by decide

theorem witness_CompleteSlotIsNeverWritten :
    let s := { answers full [0x8000] [0x05] with schedule := [.irq] }
    LinkInv s ∧ (s.rxSlot 0).status = .complete ∧ (s.rxSlot 1).status = .complete ∧
      step s = .next (nextOf (step s)) := ⟨by decide, by decide, by decide, by rfl⟩

/-- RELEASE frees rx[0]; the handler completes rx[0]. -/
theorem witness_SlotStatusChangesOnlyAsGiven :
    let s := { r1 with schedule := [.issue { word := 0x00000008, data := none }] }
    (step s = .next (nextOf (step s)) ∧ (s.rxSlot 0).status = .complete ∧
      ((nextOf (step s)).rxSlot 0).status = .free) ∧
    (step due = .next (nextOf (step due)) ∧ (due.rxSlot 0).status = .free ∧
      ((nextOf (step due)).rxSlot 0).status = .complete) :=
  ⟨⟨by rfl, by decide, by decide⟩, ⟨due_steps, by decide, by decide⟩⟩

theorem witness_QueuedFrameIsNotAltered :
    let s := { answers (sending 5) [0x8000] [] with schedule := [.irq] }
    s.txStatus = .occupied ∧ step s = .next (nextOf (step s)) ∧ (nextOf (step s)).misuse &&& 0x08 = 0 :=
  ⟨by decide, by rfl, by decide⟩

theorem witness_TransmissionStartsOnlyInTick :
    let s := { occ with main := .tickStart, freeCount := 0 }
    LinkInv s ∧ step s = .next (nextOf (step s)) ∧ s.linkState ≠ .tx ∧ (nextOf (step s)).linkState = .tx :=
  ⟨by decide, by rfl, by decide, by decide⟩

theorem witness_ResultsAreFromTheTable :
    let s := { r1 with schedule := [.issue { word := 0x00000004, data := none }] }
    step s = .next (nextOf (step s)) ∧ (nextOf (step s)).hostRes = some 0x0201 := ⟨by rfl, by decide⟩

/-- V-RX-1's frame. -/
def receiving : State :=
  { answers i0 (List.replicate 5 0x8000) [0x02, 0x10, 0xED, 0x41, 0x42] with schedule := List.replicate 5 .irq }

theorem witness_ReceptionStoresWholeFrame :
    ([0x41, 0x42] : List Byte).length ≤ 255 ∧ receiving.ie = true ∧ receiving.params.pollingBuild = false ∧
      receiving.linkState = .rxIdle ∧ (receiving.rxSlot receiving.rxIn).status = .free ∧
      receiving.schedule = List.replicate (2 + 3) .irq ∧ 2 + 3 ≤ receiving.statusAnswers.length ∧
      (∀ S ∈ receiving.statusAnswers.take (2 + 3), ffit receiving.params S = true) ∧
      receiving.fifoAnswers =
        BitVec.ofNat 8 2 :: 0x10 :: (BitVec.ofNat 8 2 ^^^ 0x10 ^^^ 0xFF) :: [0x41, 0x42] :=
  ⟨by decide, by decide, by decide, by decide, by decide, by decide, by decide, fun S h => by
    have : S = 0x8000 := List.eq_of_mem_replicate (List.mem_of_mem_take h)
    subst this
    decide, by decide⟩

/-- Vector 1.5, type corrupted. -/
theorem witness_CorruptHeaderAbandonsFrame :
    let s := { answers i0 [0x8000, 0x8000, 0x8000] [0x02, 0x11, 0xED] with schedule := [.irq, .irq, .irq] }
    (0xED : Byte) ≠ 0x02 ^^^ 0x11 ^^^ 0xFF ∧ s.ie = true ∧ s.params.pollingBuild = false ∧ s.linkState = .rxIdle ∧
      (s.rxSlot s.rxIn).status = .free ∧ s.schedule = [.irq, .irq, .irq] ∧
      s.statusAnswers = [0x8000, 0x8000, 0x8000] ∧ ffit s.params 0x8000 = true ∧ s.fifoAnswers = [0x02, 0x11, 0xED] := by
  decide

/-- V-TXI-1's frame. -/
def transmitting : State :=
  { answers (sending 0) (List.replicate 8 0x8000) [] with schedule := List.replicate 8 .irq }

theorem witness_TransmissionSendsWholeFrame :
    transmitting.ie = true ∧ transmitting.params.pollingBuild = false ∧ transmitting.linkState = .tx ∧
      transmitting.byteCount = 0 ∧ transmitting.totalBytes.toNat = 7 ∧
      7 ≤ transmitting.params.txOverhead + transmitting.params.txBufferSize ∧
      (∀ k, k < 7 → transmitting.txCell k = ([0x2D, 0xD4, 0x02, 0x10, 0xED, 0x41, 0x42] : List Byte)[k]?) ∧
      transmitting.schedule = List.replicate (7 + 1) .irq ∧ 7 + 1 ≤ transmitting.statusAnswers.length ∧
      ∀ S ∈ transmitting.statusAnswers.take (7 + 1), ffit transmitting.params S = true :=
  ⟨by decide, by decide, by decide, by decide, by decide, by decide, by decide, by decide, by decide, fun S h => by
    have : S = 0x8000 := List.eq_of_mem_replicate (List.mem_of_mem_take h)
    subst this
    decide⟩

/-- V-TK-7, and V-TK-8's FREE_COUNT 0. -/
theorem witness_ClearTickStartsWaitingFrame :
    let s := { answers occ [0x0000] [] with schedule := [.issue tickCmd], freeCount := 1 }
    s.main = .idle ∧ s.linkState = .rxIdle ∧ s.schedule = [.issue tickCmd] ∧ s.txStatus = .occupied ∧
      s.txCell 2 = some 0x02 ∧ s.freeCount.toNat ≤ 1 ∧ (0 : Byte).toNat ≤ 1 ∧
      rssi s.params (statusAnswerOf s) = false := by decide

end Sys2Proof.Tests
end

section
/-! PROOF. The scope statements: who moves next and what a step then runs (spec/00_scope.md R6, R7, R9), the lists that
SpiSeq sends (R17), and the state at reset (R10, R161). -/

namespace Sys2Proof.Machine

/-! ## What stands next to run -/

/-- R161: between operations, MAIN's turn passes. -/
theorem mainTurn_of_idle {s : State} (h : s.main = .idle) : mainTurn s = .wait s := by
  simp only [mainTurn, h, operationAt]

/-- R64: inside an operation, MAIN's turn is the operation's next micro-step. -/
theorem mainTurn_of_operation {s : State} {i : Instr} (h : operationAt s.main = some i) : mainTurn s = .resume i s := by
  simp only [mainTurn, h]

theorem fetch_of_nil {s : State} (h : s.schedule = []) : fetch s = mainTurn s := by
  simp only [fetch, h]

theorem fetch_of_proceed {s : State} {rest : List Event} (h : s.schedule = .proceed :: rest) :
    fetch s = mainTurn { s with schedule := rest } := by
  simp only [fetch, h]

/-- R6: the command at the schedule's head stays there. -/
theorem fetch_of_issue_inside {s : State} {c : HostCmd} {rest : List Event} {i : Instr}
    (h : s.schedule = .issue c :: rest) (hi : operationAt s.main = some i) : fetch s = .resume i s := by
  simp only [fetch, h, hi]

theorem step_of_wait {s s' : State} (h : fetch s = .wait s') : step s = .next s' := by
  simp only [step, h]

theorem step_of_resume {s s' : State} {i : Instr} (h : fetch s = .resume i s') : step s = exec i s' := by
  simp only [step, h]

/-! ## The instructions of the scope statements -/

theorem exec_configSeq (s : State) : exec .configSeq s = .next (s.spiSeq .configSeq s.params.configSeq) := rfl

theorem exec_auxWords (ws : List Word16) (s : State) :
    exec (.auxWords ws) s = .next (s.spiSeq (.auxWords ws) (ws.map .word)) := rfl

theorem exec_irqEvent_of_not_permitted {s : State} (h : s.irqPermitted = false) : exec .irqEvent s = .next s :=
  if_neg (by simp [h])

/-- R101: what keeps agent IRQ from stepping. -/
theorem State.irqPermitted_eq_false_iff (s : State) :
    s.irqPermitted = false ↔ s.ie = false ∨ s.params.pollingBuild = true := by
  simp [State.irqPermitted, imp_iff_not_or]

/-! ## The parameters at reset -/

/-- Both AUX flags are 0 at reset. -/
@[simp] theorem resetParams_ewb : resetParams.ewb = 0 := rfl

/-- R83: a word table that breaks the rule was replaced by the default one. -/
theorem resetParams_spi_distinct : resetParams.spi.distinct 0 = true := by
  unfold resetParams
  dsimp only
  split
  · assumption
  · decide

/-- R84: bit positions that break the rule were replaced by the default ones. -/
theorem resetParams_bits_distinct : resetParams.bits.distinct = true := by
  unfold resetParams
  dsimp only
  split
  · assumption
  · decide

/-- R136: the items that CONFIG_SEQ may not hold were filtered out. -/
theorem resetParams_configSeq_allowed : resetParams.configSeq.all (·.allowed resetParams.spi) = true :=
  List.all_eq_true.mpr fun _ h => (List.mem_filter.mp h).2

/-- R10: the sizes and the delay, each an offset from the lower end of its range. -/
theorem resetParams_ranges :
    (1 ≤ resetParams.rxBufferSize ∧ resetParams.rxBufferSize ≤ 255) ∧
      (1 ≤ resetParams.txBufferSize ∧ resetParams.txBufferSize ≤ 255) ∧ 150 ≤ resetParams.resetDelayMs :=
  ⟨⟨Nat.le_add_left .., Config.rxBufferSizePred.isLt⟩, ⟨Nat.le_add_left .., Config.txBufferSizePred.isLt⟩,
    Nat.le_add_right ..⟩

theorem resetParams_wf : resetParams.wf = true := by
  obtain ⟨⟨hrx, hrx'⟩, ⟨htx, htx'⟩, hdelay⟩ := resetParams_ranges
  simp only [Params.wf, resetParams_ewb, resetParams_spi_distinct, resetParams_bits_distinct,
    resetParams_configSeq_allowed, hrx, hrx', htx, htx', hdelay, decide_true, Bool.and_self]

/-! ## Where the invariants hold for want of anything in progress -/

/-- No frame on the air, none queued and no operation in progress. -/
theorem linkInv_of_quiet {s : State} (hl : s.linkState = .rxIdle) (ht : s.txStatus = .free) (hm : s.main = .idle) :
    LinkInv s := by
  have hrx : RxInv s := fun h => by simp [hl] at h
  have htx : TxInv s := fun h => by simp [hl] at h
  have hqueue : QueueInv s := fun h => by simp [ht] at h
  have htick : TickInv s := by
    rw [TickInv, hm]
    exact ⟨nofun, nofun⟩
  have hmask : MaskInv s := by
    rw [MaskInv, hm]
    exact nofun
  exact ⟨hrx, htx, hqueue, htick, hmask⟩

/-- The two slot pointers and the two slot statuses agree, outside RELEASE. -/
theorem ringInv_of_agree {s : State} (hm : s.main = .idle) (hp : s.rxIn = s.rxOut)
    (hs : s.rx0.status = s.rx1.status) : RingInv s := fun _ => by
  have hout : ringOut s = s.rxOut := by simp [ringOut, hm]
  rw [if_pos (hp.trans hout.symm)]
  exact hs

/-- Every cell is UNSPEC. -/
theorem memInv_of_no_cells {s : State} (h0 : s.rx0.cells = []) (h1 : s.rx1.cells = []) (ht : s.txFrame = []) :
    MemInv s := by
  simp [MemInv, h0, h1, ht]

/-! ## The obligations -/

/-- Settles O40: `SpiSeq` adds the observations of its list and nothing else. -/
theorem sequencesGoOutInOrder : Obligations.SequencesGoOutInOrder := fun s ws =>
  ⟨by rw [exec_configSeq, State.spiSeq_eq], by rw [exec_auxWords, State.spiSeq_eq]⟩

/-- Settles O7, by what `fetch` gives for each schedule. -/
theorem operationInProgressGoesOnFirst : Obligations.OperationInProgressGoesOnFirst := by
  intro s i hi
  refine ⟨fun hnil => ?_, fun c rest hissue => ?_, fun rest hproceed => ?_⟩
  · exact step_of_resume ((fetch_of_nil hnil).trans (mainTurn_of_operation hi))
  · exact step_of_resume (fetch_of_issue_inside hissue hi)
  · exact step_of_resume ((fetch_of_proceed hproceed).trans (mainTurn_of_operation hi))

/-- Settles O8: with the schedule used up it is MAIN's turn, and MAIN waits. -/
theorem blockWaitsForTheHost : Obligations.BlockWaitsForTheHost := fun _ hm hnil =>
  step_of_wait ((fetch_of_nil hnil).trans (mainTurn_of_idle hm))

/-- Settles O24: either condition makes the interrupt not permitted. -/
theorem maskedInterruptDoesNotStep : Obligations.MaskedInterruptDoesNotStep := fun s h =>
  exec_irqEvent_of_not_permitted (s.irqPermitted_eq_false_iff.mpr h)

/-- Settles O42: at power-on the link is quiet, the slots agree, no cell is written and FREE_COUNT is at its bound. -/
theorem resetMeetsInvariants : Obligations.ResetMeetsInvariants :=
  ⟨resetParams_wf, rfl, linkInv_of_quiet rfl rfl rfl, ringInv_of_agree rfl rfl rfl, memInv_of_no_cells rfl rfl rfl,
    le_rfl, rfl⟩

end Sys2Proof.Machine
end

section
/-! PROOF. What one step does to the block's own registers and cells, said once (`Effect`, `step_effect`). The
statements on every step (spec/10_state.md section 9) are case splits over it. -/

namespace Sys2Proof.Machine

/-! ## The block's part of a state -/

/-- `s` with AUX_STATE, the transceiver's answers, the draws, the result and the observation blanked. What is left is
what spec/10_state.md section 9 speaks of, MAIN's position and the schedule. -/
def State.block (s : State) : State :=
  { s with auxState := .init, statusAnswers := [], fifoAnswers := [], draws := 0, hostRes := none, obs := [] }

/-- RX_ACTIVE after the byte `d` is accumulated and stored (R108, R109). -/
def State.rxTake (s : State) (d : Byte) : State :=
  { s with
    rxChecksum := s.rxChecksum ^^^ d
    rx0 := (s.rxStoreBounded s.byteCount.toNat d).rx0
    rx1 := (s.rxStoreBounded s.byteCount.toNat d).rx1 }

/-- The three header cells written (R91). -/
def Memory.storeHeader (m : Memory) (type length : Byte) : Memory :=
  ((m.store txLenOffset length).store txTypeOffset type).store txChkOffset (headerChecksum length type)

theorem State.enqueueHeader_eq (s : State) (type length : Byte) :
    s.enqueueHeader type length =
      { s with txFrame := s.txFrame.storeHeader type length, txStatus := .occupied } := by
  simp only [State.enqueueHeader, State.txStore, Memory.storeHeader]

/-- All that one handler invocation can do to the block's part of a state. Bytes that come from the environment are
free. -/
inductive HandlerEffect (s : State) : State → Prop
  /-- Nothing: FFIT = 0 (R105). -/
  | quiet : HandlerEffect s s
  /-- The handler takes a length byte (R107). -/
  | rxAccept (d : Byte) (hlink : s.linkState = .rxIdle) (hfree : (s.rxSlot s.rxIn).status = .free) :
      HandlerEffect s { s with
        rx0 := (s.rxWrite s.rxIn rxLenOffset d).rx0, rx1 := (s.rxWrite s.rxIn rxLenOffset d).rx1
        totalBytes := d.zeroExtend 16 + 3, rxChecksum := d, byteCount := 1, linkState := .rxActive }
  /-- The handler drops a frame for want of a FREE slot (R107). -/
  | rxDrop (d : Byte) (hlink : s.linkState = .rxIdle) : HandlerEffect s { s with totalBytes := d.zeroExtend 16 + 3 }
  /-- The handler gives up on a bad header (R110). -/
  | rxAbort (d : Byte) (hlink : s.linkState = .rxActive) : HandlerEffect s { s.rxTake d with linkState := .rxIdle }
  /-- The handler takes a byte that is not the last (R111). -/
  | rxContinue (d : Byte) (hlink : s.linkState = .rxActive) (hlt : s.byteCount + 1 < s.totalBytes) :
      HandlerEffect s { s.rxTake d with byteCount := s.byteCount + 1 }
  /-- The handler takes the last byte (R112). -/
  | rxComplete (d : Byte) (hlink : s.linkState = .rxActive) :
      HandlerEffect s { s.rxTake d with
        byteCount := s.byteCount + 1
        rx0 := ((s.rxTake d).setRxStatus s.rxIn .complete).rx0
        rx1 := ((s.rxTake d).setRxStatus s.rxIn .complete).rx1
        rxIn := s.rxIn ^^^ 1, linkState := .rxIdle }
  /-- The handler sends a frame byte (R113). -/
  | txByte (hlink : s.linkState = .tx) (hlt : s.byteCount < s.totalBytes) :
      HandlerEffect s { s with byteCount := s.byteCount + 1 }
  /-- The handler ends a transmission (R114). -/
  | txDone (hlink : s.linkState = .tx) : HandlerEffect s { s with txStatus := .free, linkState := .rxIdle }

/-- All that one step can do to the block's part of a state: to the registers, the cells and MAIN's position. -/
inductive Effect (s : State) : State → Prop
  /-- A handler invocation, or nothing: waiting, a transfer, an operation that fails or only reads. -/
  | handler {u : State} (hh : HandlerEffect s u) : Effect s u
  /-- m1 of INIT and of SW_RESET (R90, R99). -/
  | mask (pos : MainPos) (hmain : s.main = .idle) (hpos : insideMasked pos = true) :
      Effect s { s with ie := false, main := pos }
  /-- m2 of INIT (R90). -/
  | initRegisters (hmain : s.main = .initBody) :
      Effect s { s.initRegisters with auxState := s.auxState, ie := true, main := .idle }
  /-- m2 of SW_RESET (R99). -/
  | unmask (hmain : s.main = .swResetBody) : Effect s { s with ie := true, main := .idle }
  /-- ENQUEUE, with no data, or COPY_ENQUEUE (R91, R92). -/
  | queue (type length : Byte) (data : List Byte) (hmain : s.main = .idle) (hfree : s.txStatus = .free)
      (hlen : length.toNat ≤ s.params.txBufferSize) :
      Effect s { s with
        txFrame := (s.txFrame.storeList (txPayloadOffset 0) data).storeHeader type length, txStatus := .occupied }
  /-- WRITE_TXP (R93). -/
  | writeTxp (index value m : Byte) (hindex : index.toNat < s.params.txBufferSize)
      (hm : s.txStatus = .occupied ∧ m = s.misuse ||| maskTxWrite ∨ s.txStatus = .free ∧ m = s.misuse) :
      Effect s { s with txFrame := s.txFrame.store (txPayloadOffset index.toNat) value, misuse := m }
  /-- An illegal command or a bad index (R143, R144). -/
  | record (m : Byte) (hm : m = maskIllegal ∨ m = maskRange) : Effect s { s with misuse := s.misuse ||| m }
  /-- m1 of RELEASE (R98). -/
  | release (m : Byte) (hmain : s.main = .idle)
      (hm : (s.rxSlot s.rxOut).status = .complete ∧ m = s.misuse ∨
        (s.rxSlot s.rxOut).status = .free ∧ m = s.misuse ||| maskRelease) :
      Effect s { s with
        rx0 := (s.setRxStatus s.rxOut .free).rx0, rx1 := (s.setRxStatus s.rxOut .free).rx1
        misuse := m, main := .releaseToggle }
  /-- m2 of RELEASE (R98). -/
  | toggle (hmain : s.main = .releaseToggle) : Effect s { s with rxOut := s.rxOut ^^^ 1, main := .idle }
  /-- TICK ends with FREE_COUNT restarted: busy at T0, a carrier at T2, a reception at T3 (R118, R120, R123). -/
  | tickRestart (v : Bool) (hmain : s.main = .idle ∨ insideTick s.main = true) (hv : v = s.ie ∨ v = true) :
      Effect s { s with freeCount := s.params.channelFreeTime, ie := v, main := .idle }
  /-- T0 finds the link idle (R118). -/
  | tickBegin (hmain : s.main = .idle) (hlink : s.linkState = .rxIdle) : Effect s { s with main := .tickSample }
  /-- T1 (R119). -/
  | tickSampled (S : Word16) (hmain : s.main = .tickSample) : Effect s { s with ie := true, main := .tickDecide S }
  /-- T2 counts and the gate passes (R121, R122). -/
  | tickGate (S : Word16) (hmain : s.main = .tickDecide S) (hcount : countDown s.freeCount = 0)
      (hqueued : s.txStatus = .occupied) : Effect s { s with freeCount := countDown s.freeCount, main := .tickStart }
  /-- T2 counts and the gate does not pass (R121, R122). -/
  | tickCount (S : Word16) (hmain : s.main = .tickDecide S) :
      Effect s { s with freeCount := countDown s.freeCount, main := .idle }
  /-- T3 starts a transmission; `l` is what tx.LEN reads as (R123). -/
  | tickTransmit (l : Byte) (hmain : s.main = .tickStart) (hl : ∀ b, s.txCell txLenOffset = some b → l = b) :
      Effect s { s with
        totalBytes := l.zeroExtend 16 + BitVec.ofNat 16 s.params.txOverhead, byteCount := 0, linkState := .tx
        ie := true, main := .idle }

/-- The handler is the other agent: MAIN stays where it is. -/
theorem HandlerEffect.main_eq {s u : State} (h : HandlerEffect s u) : u.main = s.main := by
  cases h <;> rfl

theorem HandlerEffect.schedule_eq {s u : State} (h : HandlerEffect s u) : u.schedule = s.schedule := by
  cases h <;> rfl

/-- No effect moves the schedule on. -/
theorem Effect.schedule_eq {s u : State} (h : Effect s u) : u.schedule = s.schedule := by
  cases h with
  | handler hh => exact hh.schedule_eq
  | _ => rfl

/-- What does nothing to the block is an effect. -/
theorem Effect.of_eq {s u : State} (h : u = s) : Effect s u :=
  h ▸ .handler .quiet

/-! ## The shared operations on the block's part -/

theorem State.setRxSlot_block (s : State) (i : BitVec 1) (r : RxSlot) :
    s.block.setRxSlot i r = (s.setRxSlot i r).block := by
  simp only [State.setRxSlot_eq]; rfl

theorem State.rxWrite_block (s : State) (i : BitVec 1) (off : Nat) (v : Byte) :
    s.block.rxWrite i off v = (s.rxWrite i off v).block :=
  s.setRxSlot_block i _

theorem State.setRxStatus_block (s : State) (i : BitVec 1) (v : SlotStatus) :
    s.block.setRxStatus i v = (s.setRxStatus i v).block :=
  s.setRxSlot_block i _

theorem State.rxStoreBounded_block (s : State) (k : Nat) (d : Byte) :
    s.block.rxStoreBounded k d = (s.rxStoreBounded k d).block := by
  unfold State.rxStoreBounded
  by_cases h : k < rxSlotSize s.params
  · rw [if_pos h]
    exact (if_pos h).trans (s.rxWrite_block ..)
  · rw [if_neg h]
    exact if_neg h

theorem State.rxTake_block (s : State) : s.block.rxTake (fifoByteOf s) = (rxByteState s).block := by
  unfold State.rxTake
  rw [State.rxStoreBounded_block]
  rfl

theorem State.setIe_block (s : State) (v : Bool) : (s.setIe v).block = { s.block with ie := v } := by
  rw [State.setIe_eq]; rfl

/-- IE <- 1 and `return`, as INIT and T3 end. -/
theorem State.return_unmasked_block (s : State) (op : Instr) (r : Word16) :
    (State.finish (s.setIe true) op r).block = { s.block with ie := true, main := .idle } := by
  rw [State.setIe_eq]; rfl

theorem State.setMisuse_block (s : State) (m : Byte) :
    (s.setMisuse m).block = { s.block with misuse := s.misuse ||| m } := by
  rw [State.setMisuse_eq]; rfl

@[simp] theorem State.setMisuse_main (s : State) (m : Byte) : (s.setMisuse m).main = s.main := by
  rw [State.setMisuse_eq]

/-- Between operations, a `return` shows a result and does nothing to the block. -/
theorem State.finish_block {s : State} (h : s.main = .idle) (op : Instr) (r : Word16) :
    (s.finish op r).block = s.block := by
  simp only [State.block, State.finish, h]

/-- A draw for an UNSPEC cell is the environment's. -/
theorem State.rxRead_block (s : State) (i : BitVec 1) (off : Nat) : (s.rxRead i off).2.block = s.block := by
  unfold State.rxRead
  split <;> rfl

theorem State.returnRxByte_block {s : State} (h : s.main = .idle) (op : Instr) (off : Nat) :
    (s.returnRxByte op off).block = s.block := by
  have hread := s.rxRead_block s.rxOut off
  have hmain : (s.rxRead s.rxOut off).2.main = .idle := (congrArg State.main hread).trans h
  exact (State.finish_block hmain op _).trans hread

/-! ## The handler -/

theorem handleRxIdle_effect {s : State} (hlink : s.linkState = .rxIdle) :
    HandlerEffect s.block (handleRxIdle s).block := by
  cases hst : (s.rxSlot s.rxIn).status with
  | free =>
    have h := HandlerEffect.rxAccept (s := s.block) (fifoByteOf s) hlink hst
    rw [State.rxWrite_block] at h
    rw [handleRxIdle_of_free hst]
    exact h
  | complete =>
    have h := HandlerEffect.rxDrop (s := s.block) (fifoByteOf s) hlink
    rw [handleRxIdle_of_complete hst, ← hlink]
    exact h

theorem handleRxActive_effect {s : State} (hlink : s.linkState = .rxActive) :
    HandlerEffect s.block (handleRxActive s).block := by
  rw [handleRxActive_eq]
  split
  · have h := HandlerEffect.rxAbort (s := s.block) (fifoByteOf s) hlink
    rw [State.rxTake_block] at h
    exact h
  · by_cases hlt : s.byteCount + 1 < s.totalBytes
    · have h := HandlerEffect.rxContinue (s := s.block) (fifoByteOf s) hlink hlt
      rw [State.rxTake_block] at h
      rw [State.rxAdvance_of_lt (s := rxByteState s) hlt]
      exact h
    · have h := HandlerEffect.rxComplete (s := s.block) (fifoByteOf s) hlink
      rw [State.rxTake_block, State.setRxStatus_block] at h
      rw [State.rxAdvance_of_not_lt (s := rxByteState s) hlt]
      exact h

theorem handleTx_effect {s t : State} (hlink : s.linkState = .tx) (h : handleTx s = .next t) :
    HandlerEffect s.block t.block := by
  unfold handleTx at h
  split at h
  · next hlt =>
    split at h
    · obtain ⟨b, -, hsend⟩ := s.txSendByte_eq
      rw [hsend] at h
      cases h
      exact .txByte hlink hlt
    · cases h
  · cases h
    exact .txDone hlink

/-- One invocation; its prologue does nothing to the block's part (R105). -/
theorem handler_effect {s t : State} (h : handler s = .next t) : HandlerEffect s.block t.block := by
  rw [handler_eq] at h
  split at h
  · cases hlink : s.linkState <;> rw [hlink] at h
    case rxIdle => cases h; exact handleRxIdle_effect (s := prologueState s) hlink
    case rxActive => cases h; exact handleRxActive_effect (s := prologueState s) hlink
    case tx => exact handleTx_effect (s := prologueState s) hlink h
  · cases h
    exact .quiet

theorem execIrqEvent_effect {s t : State} (h : exec .irqEvent s = .next t) : Effect s.block t.block := by
  change execIrqEvent s = .next t at h
  unfold execIrqEvent at h
  split at h
  · exact .handler (handler_effect h)
  · cases h
    exact .of_eq rfl

/-! ## TICK -/

theorem tickT0_effect {s : State} (hmain : s.main = .idle) : Effect s.block (tickT0 s).block := by
  have hbusy : Effect s.block (s.resetFreeCount.finish .tick resDone).block :=
    .tickRestart s.ie (.inl hmain) (.inl rfl)
  unfold tickT0
  split
  · next hlink => exact .tickBegin (s := s.block) hmain hlink
  · exact hbusy
  · exact hbusy

theorem tickT1_effect {s : State} (hmain : s.main = .tickSample) : Effect s.block (tickT1 s).block := by
  unfold tickT1
  simp only [State.spiStatusRead_eq, State.setIe_eq]
  exact .tickSampled _ hmain

theorem tickT2_effect {s : State} {S : Word16} (hmain : s.main = .tickDecide S) :
    Effect s.block (tickT2 S s).block := by
  cases hcarrier : rssi s.params S with
  | true =>
    rw [tickT2_of_carrier hcarrier]
    exact .tickRestart s.ie (.inr (congrArg insideTick hmain)) (.inl rfl)
  | false =>
    by_cases hgate : countDown s.freeCount = 0 ∧ s.txStatus = .occupied
    · rw [tickT2_of_gate hcarrier hgate.1 hgate.2]
      exact .tickGate S hmain hgate.1 hgate.2
    · rw [tickT2_of_not_gate hcarrier hgate]
      exact .tickCount S hmain

/-- What tx.LEN reads as: its byte, or a draw when the cell is UNSPEC. -/
theorem State.startTransmission_block (s : State) :
    ∃ l : Byte, (∀ b, s.txCell txLenOffset = some b → l = b) ∧ s.startTransmission.block = { s.block with
      totalBytes := l.zeroExtend 16 + BitVec.ofNat 16 s.params.txOverhead, byteCount := 0, linkState := .tx } := by
  have hcell : (s.spiPwrStandby s.params.ewb).txCell txLenOffset = s.txCell txLenOffset := rfl
  cases hc : s.txCell txLenOffset with
  | some l => exact ⟨l, by simp, by rw [State.startTransmission_of_some hc]; rfl⟩
  | none =>
    refine ⟨Config.unspecByte s.draws, by simp, ?_⟩
    simp only [State.startTransmission, State.txRead_of_none (hcell.trans hc)]
    rfl

theorem tickT3_effect {s : State} (hmain : s.main = .tickStart) : Effect s.block (tickT3 s).block := by
  unfold tickT3 State.criticalSection tickStartBody
  split
  · simp only [State.setIe_eq]
    exact .tickRestart true (.inr (congrArg insideTick hmain)) (.inr rfl)
  · obtain ⟨l, hl, hstart⟩ := (s.setIe false).startTransmission_block
    rw [State.return_unmasked_block, hstart, State.setIe_block]
    simp only [State.setIe_eq] at hl ⊢
    exact .tickTransmit l hmain hl

/-! ## The host operations -/

/-- A successful ENQUEUE or COPY_ENQUEUE. -/
theorem queue_effect {s : State} (hmain : s.main = .idle) (hfree : s.txStatus = .free) {type length : Byte}
    (hlen : txLengthOk s.params length = true) (data : List Byte) (op : Instr) (r : Word16) :
    Effect s.block ((State.enqueueHeader { s with txFrame := s.txFrame.storeList (txPayloadOffset 0) data }
      type length).finish op r).block := by
  rw [State.enqueueHeader_eq, State.finish_block]
  · exact .queue (s := s.block) type length data hmain hfree (of_decide_eq_true hlen)
  · exact hmain

theorem enqueueOp_effect {s : State} (hmain : s.main = .idle) (type length : Byte) :
    Effect s.block (enqueueOp type length s).block := by
  unfold enqueueOp
  split
  · exact .of_eq (State.finish_block hmain ..)
  · next hfree =>
    split
    · next hlen => exact queue_effect hmain hfree hlen [] ..
    · exact .of_eq (State.finish_block hmain ..)

theorem raiseIllegal_effect {s : State} (hmain : s.main = .idle) (op : Instr) :
    Effect s.block (s.raiseIllegal op).block := by
  rw [State.raiseIllegal, State.finish_block (by simpa using hmain), State.setMisuse_block]
  exact .record (s := s.block) maskIllegal (.inl rfl)

theorem raiseBadIndex_effect {s : State} (hmain : s.main = .idle) (op : Instr) (i : Byte) :
    Effect s.block (s.raiseBadIndex op i).block := by
  rw [State.raiseBadIndex, State.finish_block (by simpa using hmain), State.setMisuse_block]
  exact .record (s := s.block) maskRange (.inr rfl)

theorem copyEnqueueOp_effect {s : State} (hmain : s.main = .idle) (type length : Byte) (data : List Byte) :
    Effect s.block (copyEnqueueOp type length data s).block := by
  unfold copyEnqueueOp
  split
  · exact .of_eq (State.finish_block hmain ..)
  · next hfree =>
    split
    · next hlen => exact queue_effect hmain hfree hlen data ..
    · exact .of_eq (State.finish_block hmain ..)

theorem writeTxpOp_effect {s : State} (hmain : s.main = .idle) (index value : Byte) :
    Effect s.block (writeTxpOp index value s).block := by
  unfold writeTxpOp
  split
  · next hindex =>
    have hlt : index.toNat < s.params.txBufferSize := of_decide_eq_true hindex
    cases hst : s.txStatus with
    | occupied =>
      rw [State.finish_block (by simpa using hmain), State.setMisuse_eq]
      exact .writeTxp (s := s.block) index value _ hlt (.inl ⟨hst, rfl⟩)
    | free =>
      rw [State.finish_block (by simpa using hmain)]
      exact .writeTxp (s := s.block) index value _ hlt (.inr ⟨hst, rfl⟩)
  · exact raiseBadIndex_effect hmain ..

theorem releaseStart_effect {s : State} (hmain : s.main = .idle) : Effect s.block (releaseStart s).block := by
  have h := fun m => Effect.release (s := s.block) m hmain
  rw [State.setRxStatus_block] at h
  cases hst : (s.rxSlot s.rxOut).status with
  | complete =>
    rw [releaseStart_of_complete hst]
    exact h _ (.inl ⟨hst, rfl⟩)
  | free =>
    rw [releaseStart_of_free hst]
    exact h _ (.inr ⟨hst, rfl⟩)

/-- m1 of INIT and of SW_RESET. -/
theorem maskStart_effect {s : State} (hmain : s.main = .idle) {pos : MainPos} (hpos : insideMasked pos = true) :
    Effect s.block (State.block { s.setIe false with main := pos }) := by
  rw [State.setIe_eq]
  exact .mask pos hmain hpos

theorem initFinish_effect {s : State} (hmain : s.main = .initBody) : Effect s.block (initFinish s).block := by
  unfold initFinish
  rw [State.return_unmasked_block, State.spiSeq_eq]
  have h := Effect.initRegisters (s := s.block) hmain
  simp only [State.initRegisters, State.block] at h ⊢
  exact h

theorem swResetFinish_effect {s : State} (hmain : s.main = .swResetBody) :
    Effect s.block (swResetFinish s).block := by
  unfold swResetFinish
  simp only [State.setIe_eq, State.spiXcvrReset, State.spi, State.delay]
  exact .unmask hmain

/-- SERVICE, from between operations, to where it returns (R100). -/
theorem execService_effect {s t : State} (hmain : s.main = .idle) (h : execService s = .next t) :
    Effect s.block t.block := by
  unfold execService at h
  split at h
  · cases hrun : handler s with
    | next u =>
      rw [hrun] at h
      cases h
      have heff := handler_effect hrun
      rw [State.finish_block (s := u) (heff.main_eq.trans hmain)]
      exact .handler heff
    | fault => rw [hrun] at h; cases h
    | refused => rw [hrun] at h; cases h
  · cases h
    exact raiseIllegal_effect hmain _

/-! ## The step -/

/-- A transfer does nothing to the block (R126). -/
theorem exec_block_of_isSpiCommand {s t : State} {i : Instr} (hi : isSpiCommand i = true) (h : exec i s = .next t) :
    t.block = s.block := by
  cases i <;> cases hi
  case statusRead => cases h; rw [State.spiStatusRead_eq]; rfl
  case fifoRead => cases h; rw [State.spiFifoRead_eq]; rfl
  all_goals cases h; rfl

/-- Between operations: an operation starts, or an agent other than MAIN takes its turn. -/
theorem exec_effect_of_idle {s t : State} {i : Instr} (hmain : s.main = .idle) (h : exec i s = .next t) :
    Effect s.block t.block := by
  cases i with
  | init =>
    simp only [exec, execInit, hmain] at h
    cases h
    exact maskStart_effect hmain rfl
  | enqueue type length => cases h; exact enqueueOp_effect hmain ..
  | copyEnqueue type length data =>
    cases h
    split
    · exact copyEnqueueOp_effect hmain ..
    · exact raiseIllegal_effect hmain _
  | writeTxp index value => cases h; exact writeTxpOp_effect hmain ..
  | poll => cases h; exact .of_eq (State.finish_block hmain ..)
  | getLen => cases h; exact .of_eq (State.returnRxByte_block hmain ..)
  | getType => cases h; exact .of_eq (State.returnRxByte_block hmain ..)
  | readRxp index =>
    cases h
    split
    · exact .of_eq (State.returnRxByte_block hmain ..)
    · exact raiseBadIndex_effect hmain ..
  | release =>
    simp only [exec, execRelease, hmain] at h
    cases h
    exact releaseStart_effect hmain
  | tick =>
    simp only [exec, execTick, hmain] at h
    cases h
    exact tickT0_effect hmain
  | swReset =>
    simp only [exec, execSwReset, hmain] at h
    cases h
    exact maskStart_effect hmain rfl
  | service => exact execService_effect hmain h
  | illegal word data => cases h; exact raiseIllegal_effect hmain _
  | irqEvent => exact execIrqEvent_effect h
  | configSeq => rw [exec_configSeq, State.spiSeq_eq] at h; cases h; exact .of_eq rfl
  | auxWords ws => rw [exec_auxWords, State.spiSeq_eq] at h; cases h; exact .of_eq rfl
  | _ => exact .of_eq (exec_block_of_isSpiCommand rfl h)

/-- Inside an operation: its next micro-step. -/
theorem exec_effect_of_operation {s t : State} {i : Instr} (hop : operationAt s.main = some i)
    (h : exec i s = .next t) : Effect s.block t.block := by
  cases hmain : s.main <;> rw [hmain] at hop <;> cases hop
  case initBody => simp only [exec, execInit, hmain] at h; cases h; exact initFinish_effect hmain
  case releaseToggle => simp only [exec, execRelease, hmain] at h; cases h; exact .toggle hmain
  case tickSample => simp only [exec, execTick, hmain] at h; cases h; exact tickT1_effect hmain
  case tickDecide S => simp only [exec, execTick, hmain] at h; cases h; exact tickT2_effect hmain
  case tickStart => simp only [exec, execTick, hmain] at h; cases h; exact tickT3_effect hmain
  case swResetBody => simp only [exec, execSwReset, hmain] at h; cases h; exact swResetFinish_effect hmain

/-- One step is an effect on the block, from the state with the schedule moved on. -/
theorem step_effect {s t : State} (h : step s = .next t) :
    Effect (State.block { s with schedule := t.schedule }) t.block := by
  obtain ⟨rest, s', rfl, hcases⟩ := step_cases h
  suffices heff : Effect (State.block { s with schedule := rest }) t.block by
    rw [show t.schedule = rest from heff.schedule_eq]
    exact heff
  rcases hcases with ⟨-, ht⟩ | ⟨i, hop, ht⟩ | ⟨c, hmain, -, ht⟩ | ⟨-, ht⟩ | ⟨w, i, -, hdec, ht⟩ | ⟨w, e, -, -, ht⟩
  · cases ht; exact .of_eq rfl
  · exact exec_effect_of_operation hop ht.symm
  · exact exec_effect_of_idle hmain ht.symm
  · exact execIrqEvent_effect ht.symm
  · exact .of_eq (exec_block_of_isSpiCommand (decodeSpi_isSpiCommand hdec) ht.symm)
  · cases ht

end Sys2Proof.Machine
end

section
/-! PROOF. The statements on every step (spec/10_state.md section 9, R27, R29, R31, R37, R39, R41), by cases over what a
step can do (`Effect`). -/

namespace Sys2Proof.Machine

/-! ## What an effect does to cells -/

@[simp] theorem State.rxTake_status (s : State) (d : Byte) (i : BitVec 1) :
    ((s.rxTake d).rxSlot i).status = (s.rxSlot i).status :=
  s.rxStoreBounded_status s.byteCount.toNat d i

/-- R109: one cell of rx[RX_IN] at most is written. -/
theorem State.rxCell_rxTake_of_ne (s : State) (d : Byte) {i : BitVec 1} {a : Nat}
    (h : i ≠ s.rxIn ∨ a ≠ s.byteCount.toNat) : (s.rxTake d).rxCell i a = s.rxCell i a := by
  have hcell : (s.rxTake d).rxCell i a = (s.rxStoreBounded s.byteCount.toNat d).rxCell i a := rfl
  rw [hcell, State.rxCell_rxStoreBounded, if_neg (by tauto)]

/-- R91: the three header cells that ENQUEUE writes. -/
theorem State.txCell_enqueueHeader (s : State) (type length : Byte) (a : Nat) :
    (s.enqueueHeader type length).txCell a =
      if a = txChkOffset then some (headerChecksum length type) else if a = txTypeOffset then some type
      else if a = txLenOffset then some length else s.txCell a := by
  have hcell : (s.enqueueHeader type length).txCell a =
      (((s.txStore txLenOffset length).txStore txTypeOffset type).txStore txChkOffset
        (headerChecksum length type)).txCell a := rfl
  rw [hcell, State.txCell_txStore, State.txCell_txStore, State.txCell_txStore] <;>
    simp only [State.txStore_params, txLenOffset, txTypeOffset, txChkOffset] <;> omega

/-- R93: WRITE_TXP writes one payload cell. -/
theorem State.txCell_writeTxp (s : State) {index value : Byte} (m : Byte) (h : index.toNat < s.params.txBufferSize)
    (a : Nat) :
    State.txCell { s with txFrame := s.txFrame.store (txPayloadOffset index.toNat) value, misuse := m } a =
      if a = txPayloadOffset index.toNat then some value else s.txCell a :=
  s.txCell_txStore (txPayloadOffset index.toNat) a value (by unfold txPayloadOffset; omega)
    (by unfold txPayloadOffset; omega)

/-- R49: what ENQUEUE queues has a header. -/
theorem State.headerQueued_enqueueHeader {s : State} {type length : Byte}
    (hlen : length.toNat ≤ s.params.txBufferSize) : headerQueued (s.enqueueHeader type length) = true := by
  have hparams : (s.enqueueHeader type length).params = s.params := rfl
  simp [headerQueued, State.txCell_enqueueHeader, hparams, txLenOffset, txTypeOffset, txChkOffset, headerChecksum, hlen]

theorem State.headerQueued_storeHeader {s : State} (m : Memory) (type : Byte) {length : Byte}
    (hlen : length.toNat ≤ s.params.txBufferSize) :
    headerQueued { s with txFrame := m.storeHeader type length, txStatus := .occupied } = true := by
  have h := State.headerQueued_enqueueHeader (s := { s with txFrame := m }) (type := type) hlen
  rwa [State.enqueueHeader_eq] at h

/-- A queued header has a written length, and that length fits. -/
theorem txCell_len_of_headerQueued {s : State} (h : headerQueued s = true) :
    ∃ l, s.txCell txLenOffset = some l ∧ l.toNat ≤ s.params.txBufferSize := by
  unfold headerQueued at h
  split at h
  · next l _ _ hl _ _ => exact ⟨l, hl, of_decide_eq_true (Bool.and_eq_true_iff.mp h).2⟩
  · cases h

/-- A header is read from its three cells and the capacity. -/
theorem headerQueued_congr {s u : State} (hp : u.params = s.params) (h : ∀ a, a < 5 → u.txCell a = s.txCell a) :
    headerQueued u = headerQueued s := by
  unfold headerQueued
  rw [h txLenOffset (by decide), h txTypeOffset (by decide), h txChkOffset (by decide), hp]

/-- A counter below a bound does not wrap when it advances. -/
theorem toNat_add_one_of_lt {k n : Word16} (h : k < n) : (k + 1).toNat = k.toNat + 1 := by
  have := n.isLt
  rw [BitVec.lt_def] at h
  rw [BitVec.toNat_add]
  simp only [BitVec.reduceToNat]
  omega

/-! ## The link invariant: reception (R46) -/

theorem HandlerEffect.keeps_rxInv {s u : State} (h : HandlerEffect s u) (hs : RxInv s) : RxInv u := by
  cases h with
  | rxAccept d hlink hfree =>
    intro _
    have htotal := rxTotal_toNat d
    refine ⟨(State.rxWrite_status ..).trans hfree, Nat.le_refl 1, ?_, ?_⟩
    · show 1 < ((d.zeroExtend 16 : Word16) + 3).toNat
      omega
    · show ((s.rxWrite s.rxIn rxLenOffset d).rxCell s.rxIn rxLenOffset).map _ = some _
      rw [State.rxCell_rxWrite, if_pos ⟨rfl, rfl⟩, Option.map_some, htotal]
  | rxContinue d hlink hlt =>
    intro _
    obtain ⟨hfree, hone, hbound, hlen⟩ := hs hlink
    have hnext := toNat_add_one_of_lt (k := s.byteCount) (n := s.totalBytes) hbound
    refine ⟨(s.rxTake_status ..).trans hfree, ?_, hlt, ?_⟩
    · show 1 ≤ (s.byteCount + 1).toNat
      omega
    · have hkeep : (s.rxTake d).rxCell s.rxIn rxLenOffset = s.rxCell s.rxIn rxLenOffset :=
        s.rxCell_rxTake_of_ne d (.inr (by unfold rxLenOffset; omega))
      exact (congrArg _ hkeep).trans hlen
  | rxDrop _ hlink | txByte hlink => exact fun h => absurd (hlink.symm.trans h) nofun
  | rxAbort | rxComplete | txDone => exact nofun
  | quiet => exact hs

theorem Effect.keeps_rxInv {s u : State} (h : Effect s u) (hs : RxInv s) : RxInv u := by
  cases h with
  | handler hh => exact hh.keeps_rxInv hs
  | release m _ _ =>
    intro hlink
    obtain ⟨hfree, hone, hbound, hlen⟩ := hs hlink
    refine ⟨?_, hone, hbound, ?_⟩
    · show ((s.setRxStatus s.rxOut .free).rxSlot s.rxIn).status = .free
      by_cases hin : s.rxIn = s.rxOut
      · rw [hin, State.setRxStatus, State.rxSlot_setRxSlot_self]
      · rw [State.setRxStatus, State.rxSlot_setRxSlot_of_ne _ _ hin, hfree]
    · exact (congrArg _ (s.rxCell_setRxStatus s.rxOut s.rxIn .free rxLenOffset)).trans hlen
  | initRegisters | tickTransmit => exact nofun
  | _ => exact hs

/-! ## The link invariant: transmission (R47) -/

theorem HandlerEffect.keeps_txInv {s u : State} (h : HandlerEffect s u) (hs : TxInv s) : TxInv u := by
  cases h with
  | txByte hlink hlt =>
    intro _
    obtain ⟨hocc, -, hlen⟩ := hs hlink
    refine ⟨hocc, ?_, hlen⟩
    show (s.byteCount + 1).toNat ≤ s.totalBytes.toNat
    rw [toNat_add_one_of_lt hlt]
    exact hlt
  | rxDrop _ hlink | rxContinue _ hlink => exact fun h => absurd (hlink.symm.trans h) nofun
  | rxAccept | rxAbort | rxComplete | txDone => exact nofun
  | quiet => exact hs

/-- A queued frame is what T3 reads the length of. -/
theorem Effect.keeps_txInv {s u : State} (h : Effect s u) (hs : TxInv s) (hqueue : QueueInv s) (htick : TickInv s) :
    TxInv u := by
  cases h with
  | handler hh => exact hh.keeps_txInv hs
  | queue type length data _ hfree _ => exact fun hlink => absurd (hfree.symm.trans (hs hlink).1) nofun
  | writeTxp index value m hindex _ =>
    intro hlink
    obtain ⟨hocc, hbound, hlen⟩ := hs hlink
    refine ⟨hocc, hbound, ?_⟩
    rw [State.txCell_writeTxp s m hindex, if_neg (by unfold txPayloadOffset txLenOffset; omega)]
    exact hlen
  | tickTransmit l hmain hl =>
    intro _
    obtain ⟨hocc, -⟩ := htick.2 hmain
    obtain ⟨b, hb, -⟩ := txCell_len_of_headerQueued (hqueue hocc)
    refine ⟨hocc, Nat.zero_le _, ?_⟩
    show (s.txCell txLenOffset).map _ = some ((l.zeroExtend 16 : Word16) + BitVec.ofNat 16 s.params.txOverhead).toNat
    rw [hb, hl b hb, txTotal_toNat]
    rfl
  | initRegisters => exact nofun
  | _ => exact hs

/-! ## The link invariant: the queued header (R49), TICK (R118, R122) and the masked bodies (R66) -/

theorem HandlerEffect.keeps_queueInv {s u : State} (h : HandlerEffect s u) (hs : QueueInv s) : QueueInv u := by
  cases h with
  | txDone => exact nofun
  | _ => exact hs

theorem Effect.keeps_queueInv {s u : State} (h : Effect s u) (hs : QueueInv s) : QueueInv u := by
  cases h with
  | handler hh => exact hh.keeps_queueInv hs
  | queue type length data _ _ hlen => exact fun _ => State.headerQueued_storeHeader _ type hlen
  | writeTxp index value m hindex _ =>
    intro hocc
    refine (headerQueued_congr ?_ fun a ha => ?_).trans (hs hocc)
    · rfl
    · rw [State.txCell_writeTxp s m hindex, if_neg (by unfold txPayloadOffset; omega)]
  | initRegisters => exact nofun
  | _ => exact hs

/-- Only the end of a transmission frees the frame, and TICK is not past T0 then. -/
theorem HandlerEffect.keeps_tickInv {s u : State} (h : HandlerEffect s u) (hs : TickInv s) : TickInv u := by
  obtain ⟨hlink, hgate⟩ := hs
  cases h with
  | txDone htx =>
    exact ⟨fun _ => nofun, fun hmain => absurd htx (hlink (congrArg insideTick hmain))⟩
  | rxAccept | rxAbort | rxComplete => exact ⟨fun _ => nofun, hgate⟩
  | _ => exact ⟨hlink, hgate⟩

/-- MAIN is in the middle of no TICK. -/
theorem tickInv_of_outside {s : State} (h : insideTick s.main = false) : TickInv s :=
  ⟨fun hin => absurd (h.symm.trans hin) nofun, fun hm => absurd (h.symm.trans (congrArg insideTick hm)) nofun⟩

theorem outside_tick_of_masked {pos : MainPos} : insideMasked pos = true → insideTick pos = false := by
  intro h
  cases pos with
  | initBody | swResetBody => rfl
  | _ => cases h

theorem Effect.keeps_tickInv {s u : State} (h : Effect s u) (hs : TickInv s) : TickInv u := by
  cases h with
  | handler hh => exact hh.keeps_tickInv hs
  | mask pos _ hpos => exact tickInv_of_outside (outside_tick_of_masked hpos)
  | queue type length data hmain _ _ => exact tickInv_of_outside (congrArg insideTick hmain)
  | writeTxp | record => exact hs
  | tickBegin _ hlink => exact ⟨fun _ h => absurd (hlink.symm.trans h) nofun, nofun⟩
  | tickSampled S hmain => exact ⟨fun _ => hs.1 (congrArg insideTick hmain), nofun⟩
  | tickGate S hmain hcount hqueued => exact ⟨fun _ => hs.1 (congrArg insideTick hmain), fun _ => ⟨hqueued, hcount⟩⟩
  | _ => exact tickInv_of_outside rfl

theorem HandlerEffect.ie_eq {s u : State} (h : HandlerEffect s u) : u.ie = s.ie := by
  cases h <;> rfl

theorem Effect.keeps_maskInv {s u : State} (h : Effect s u) (hs : MaskInv s) : MaskInv u := by
  cases h with
  | handler hh =>
    rw [MaskInv, hh.main_eq, hh.ie_eq]
    exact hs
  | mask => exact fun _ => rfl
  | queue | writeTxp | record => exact hs
  | _ => exact nofun

theorem Effect.keeps_linkInv {s u : State} (h : Effect s u) (hs : LinkInv s) : LinkInv u := by
  obtain ⟨hrx, htx, hqueue, htick, hmask⟩ := hs
  exact ⟨h.keeps_rxInv hrx, h.keeps_txInv htx hqueue htick, h.keeps_queueInv hqueue, h.keeps_tickInv htick,
    h.keeps_maskInv hmask⟩

/-- Settles O43. -/
theorem stepKeepsLinkInvariant : Obligations.StepKeepsLinkInvariant :=
  fun _ _ hs h => (step_effect h).keeps_linkInv hs

/-! ## The receive ring (R48) -/

/-- The ring invariant sees the statuses, the two pointers and MISUSE. -/
theorem ringInv_congr {s u : State} (hstatus : ∀ i, (u.rxSlot i).status = (s.rxSlot i).status)
    (hin : u.rxIn = s.rxIn) (hout : ringOut u = ringOut s)
    (hmisuse : u.misuse &&& maskRelease = 0 → s.misuse &&& maskRelease = 0) (hs : RingInv s) : RingInv u := by
  intro hclear
  have h0 : u.rx0.status = s.rx0.status := hstatus 0
  have h1 : u.rx1.status = s.rx1.status := hstatus 1
  rw [hin, hout, h0, h1, hstatus, hstatus]
  exact hs (hmisuse hclear)

/-- The ring invariant of a state whose pointers agree, in terms of any slot and the other. -/
theorem slots_agree_iff (s : State) (i : BitVec 1) :
    s.rx0.status = s.rx1.status ↔ (s.rxSlot i).status = (s.rxSlot (i ^^^ 1)).status := by
  rcases slot_cases i with h | h <;> subst h
  · exact Iff.rfl
  · exact eq_comm

theorem ringOut_of_ne {s : State} (h : s.main ≠ .releaseToggle) : ringOut s = s.rxOut := if_neg h

/-- MAIN moves, but neither into nor out of RELEASE. -/
theorem ringInv_of_main_moved {s : State} (hs : RingInv s) (hmain : s.main ≠ .releaseToggle) {pos : MainPos}
    (hpos : pos ≠ .releaseToggle) : RingInv { s with main := pos } :=
  ringInv_congr (s := s) (fun _ => rfl) rfl ((if_neg hpos).trans (if_neg hmain).symm) id hs

/-- Recording misuse other than M_RELEASE. -/
theorem or_and_maskRelease {m k : Byte} (hk : k &&& maskRelease = 0) :
    (m ||| k) &&& maskRelease = m &&& maskRelease := by
  rw [BitVec.and_or_distrib_right, hk]
  exact BitVec.or_zero

/-- A recorded bit is set. -/
theorem or_and_self_ne_zero {m k : Byte} (hk : k ≠ 0) : (m ||| k) &&& k ≠ 0 := by
  rw [BitVec.and_or_distrib_right, BitVec.and_self]
  intro h
  exact hk (BitVec.or_eq_zero_iff.mp h).2

/-- A frame completed: rx[RX_IN], which was FREE, joins the COMPLETE slots at their end. -/
theorem ringInv_of_complete {s u : State} (hs : RingInv s) (hfree : (s.rxSlot s.rxIn).status = .free)
    (hin : u.rxIn = s.rxIn ^^^ 1) (hdone : (u.rxSlot s.rxIn).status = .complete)
    (hother : (u.rxSlot (s.rxIn ^^^ 1)).status = (s.rxSlot (s.rxIn ^^^ 1)).status)
    (hout : ringOut u = ringOut s) (hmisuse : u.misuse = s.misuse) : RingInv u := by
  intro hclear
  have hring := hs (hmisuse ▸ hclear)
  rw [hin, hout]
  by_cases hempty : s.rxIn = ringOut s
  · rw [if_pos hempty, slots_agree_iff s s.rxIn] at hring
    rw [if_neg (hempty ▸ slot_xor_ne _), ← hempty, hother, ← hring]
    exact ⟨hdone, hfree⟩
  · rw [if_neg hempty] at hring
    have hnext : ringOut s = s.rxIn ^^^ 1 := slot_eq_xor_of_ne (Ne.symm hempty)
    rw [if_pos hnext.symm, slots_agree_iff u s.rxIn, hother, hdone, ← hnext, hring.1]

/-- A slot released: rx[RX_OUT], which was COMPLETE, leaves the COMPLETE slots at their start. -/
theorem ringInv_of_release {s u : State} (hs : RingInv s) (hfull : (s.rxSlot (ringOut s)).status = .complete)
    (hin : u.rxIn = s.rxIn) (hdone : (u.rxSlot (ringOut s)).status = .free)
    (hother : (u.rxSlot (ringOut s ^^^ 1)).status = (s.rxSlot (ringOut s ^^^ 1)).status)
    (hout : ringOut u = ringOut s ^^^ 1) (hmisuse : u.misuse = s.misuse) : RingInv u := by
  intro hclear
  have hring := hs (hmisuse ▸ hclear)
  rw [hin, hout]
  by_cases hpos : s.rxIn = ringOut s
  · rw [if_pos hpos, slots_agree_iff s (ringOut s)] at hring
    rw [if_neg (hpos ▸ (slot_xor_ne _).symm), hother, ← hring, hpos]
    exact ⟨hfull, hdone⟩
  · rw [if_neg hpos] at hring
    have hnext : s.rxIn = ringOut s ^^^ 1 := slot_eq_xor_of_ne hpos
    rw [if_pos hnext, slots_agree_iff u (ringOut s), hdone, hother, ← hnext, hring.2]

theorem HandlerEffect.keeps_ringInv {s u : State} (h : HandlerEffect s u) (hrx : RxInv s) (hs : RingInv s) :
    RingInv u := by
  cases h with
  | rxAccept d _ _ => exact ringInv_congr (s := s) (fun i => s.rxWrite_status s.rxIn i _ d) rfl rfl id hs
  | rxAbort d | rxContinue d => exact ringInv_congr (s := s) (s.rxTake_status d) rfl rfl id hs
  | rxComplete d hlink =>
    obtain ⟨hfree, -⟩ := hrx hlink
    refine ringInv_of_complete hs hfree rfl ?_ ?_ rfl rfl
    · show (((s.rxTake d).setRxStatus s.rxIn .complete).rxSlot s.rxIn).status = .complete
      rw [State.setRxStatus, State.rxSlot_setRxSlot_self]
    · show (((s.rxTake d).setRxStatus s.rxIn .complete).rxSlot (s.rxIn ^^^ 1)).status = _
      rw [State.setRxStatus, State.rxSlot_setRxSlot_of_ne _ _ (slot_xor_ne _), State.rxTake_status]
  | _ => exact hs

theorem Effect.keeps_ringInv {s u : State} (h : Effect s u) (hrx : RxInv s) (hs : RingInv s) : RingInv u := by
  cases h with
  | handler hh => exact hh.keeps_ringInv hrx hs
  | initRegisters => exact fun _ => rfl
  | writeTxp index value m _ hm =>
    refine ringInv_congr (s := s) (fun _ => rfl) rfl rfl (fun hclear => ?_) hs
    obtain ⟨-, rfl⟩ | ⟨-, rfl⟩ := hm
    · exact (or_and_maskRelease rfl).symm.trans hclear
    · exact hclear
  | record m hm =>
    refine ringInv_congr (s := s) (fun _ => rfl) rfl rfl (fun hclear => ?_) hs
    have hother : m &&& maskRelease = 0 := by obtain rfl | rfl := hm <;> rfl
    exact (or_and_maskRelease hother).symm.trans hclear
  | release m hmain hm =>
    have hout : ringOut s = s.rxOut := ringOut_of_ne (by simp [hmain])
    obtain ⟨hfull, rfl⟩ | ⟨-, rfl⟩ := hm
    · refine ringInv_of_release hs (hout ▸ hfull) rfl ?_ ?_ (hout ▸ rfl) rfl
      · show ((s.setRxStatus s.rxOut .free).rxSlot (ringOut s)).status = .free
        rw [hout, State.setRxStatus, State.rxSlot_setRxSlot_self]
      · show ((s.setRxStatus s.rxOut .free).rxSlot (ringOut s ^^^ 1)).status = _
        rw [hout, State.setRxStatus, State.rxSlot_setRxSlot_of_ne _ _ (slot_xor_ne _)]
    · exact fun hclear => absurd hclear (or_and_self_ne_zero (by decide))
  | toggle hmain => exact ringInv_congr (s := s) (fun _ => rfl) rfl (if_pos hmain).symm id hs
  | queue => exact hs
  | mask pos hmain hpos =>
    exact ringInv_of_main_moved (s := s) hs (by simp [hmain]) (by rintro rfl; cases hpos)
  | tickRestart v hmain _ =>
    exact ringInv_of_main_moved (s := s) hs (by rintro h; rw [h] at hmain; obtain h' | h' := hmain <;> cases h') nofun
  | unmask hmain | tickBegin hmain | tickSampled _ hmain | tickGate _ hmain | tickCount _ hmain
  | tickTransmit _ hmain =>
    exact ringInv_of_main_moved (s := s) hs (by simp [hmain]) nofun

/-- Settles O44. -/
theorem stepKeepsRingInvariant : Obligations.StepKeepsRingInvariant :=
  fun _ _ hlink hs h => (step_effect h).keeps_ringInv hlink.1 hs

/-! ## FREE_COUNT, MISUSE and the parameters -/

theorem HandlerEffect.freeCount_eq {s u : State} (h : HandlerEffect s u) : u.freeCount = s.freeCount := by
  cases h <;> rfl

theorem HandlerEffect.misuse_eq {s u : State} (h : HandlerEffect s u) : u.misuse = s.misuse := by
  cases h <;> rfl

theorem HandlerEffect.params_eq {s u : State} (h : HandlerEffect s u) : u.params = s.params := by
  cases h <;> rfl

/-- R27: no effect names the parameters. -/
theorem Effect.params_eq {s u : State} (h : Effect s u) : u.params = s.params := by
  cases h with
  | handler hh => exact hh.params_eq
  | _ => rfl

/-- FREE_COUNT stays, counts down or restarts (R37). -/
theorem Effect.freeCount_cases {s u : State} (h : Effect s u) :
    u.freeCount = s.freeCount ∨ u.freeCount = countDown s.freeCount ∨ u.freeCount = s.params.channelFreeTime := by
  cases h with
  | handler hh => exact .inl hh.freeCount_eq
  | tickGate | tickCount => exact .inr (.inl rfl)
  | initRegisters | tickRestart => exact .inr (.inr rfl)
  | _ => exact .inl rfl

/-- MISUSE stays or gains the bit of one of the four masks (R41, R147). -/
theorem Effect.misuse_cases {s u : State} (h : Effect s u) :
    u.misuse = s.misuse ∨ ∃ k : Fin 4, u.misuse = s.misuse ||| (1#8 <<< k.val) := by
  cases h with
  | handler hh => exact .inl hh.misuse_eq
  | writeTxp index value m _ hm =>
    obtain ⟨-, rfl⟩ | ⟨-, rfl⟩ := hm
    · exact .inr ⟨3, rfl⟩
    · exact .inl rfl
  | record m hm =>
    obtain rfl | rfl := hm
    · exact .inr ⟨0, rfl⟩
    · exact .inr ⟨1, rfl⟩
  | release m _ hm =>
    obtain ⟨-, rfl⟩ | ⟨-, rfl⟩ := hm
    · exact .inl rfl
    · exact .inr ⟨2, rfl⟩
  | _ => exact .inl rfl

/-- The four masks lie in bits 3..0. -/
theorem maskBit_high (k : Fin 4) : (1#8 <<< k.val) &&& 0xF0#8 = 0#8 := by
  revert k; decide

/-- Settles O48. -/
theorem parametersNeverChange : Obligations.ParametersNeverChange :=
  fun _ _ h => (step_effect h).params_eq

/-- Settles O46: of the three values FREE_COUNT can take, none is above the larger of the old one and the limit. -/
theorem stepKeepsFreeCountBounded : Obligations.StepKeepsFreeCountBounded := by
  intro s t hs h
  have hcases : t.freeCount = s.freeCount ∨ t.freeCount = countDown s.freeCount ∨
    t.freeCount = s.params.channelFreeTime := (step_effect h).freeCount_cases
  rw [parametersNeverChange s t h]
  obtain hc | hc | hc := hcases
  · rwa [hc]
  · rw [hc, countDown_toNat]
    omega
  · rw [hc]

/-- Settles O47: what is OR-ed in is one of the four masks. -/
theorem misuseBitsAreSticky : Obligations.MisuseBitsAreSticky := by
  intro s t h
  have hcases : t.misuse = s.misuse ∨ ∃ k : Fin 4, t.misuse = s.misuse ||| (1#8 <<< k.val) :=
    (step_effect h).misuse_cases
  refine ⟨?_, fun hhigh => ?_, hcases⟩
  · obtain hm | ⟨k, hm⟩ := hcases <;> rw [hm]
    · exact BitVec.and_self
    · rw [BitVec.and_comm]
      ext i
      simp +contextual
  · obtain hm | ⟨k, hm⟩ := hcases <;> rw [hm]
    · exact hhigh
    · rw [BitVec.and_or_distrib_right]
      exact (congrArg₂ _ hhigh (maskBit_high k)).trans BitVec.or_zero

/-! ## Receive slots (R39, R46, R67) -/

/-- The handler stores only in rx[RX_IN], and only while that slot is being filled or found FREE. -/
theorem HandlerEffect.rxCell_cases {s u : State} (h : HandlerEffect s u) (i : BitVec 1) :
    (∀ a, u.rxCell i a = s.rxCell i a) ∨
      (i = s.rxIn ∧ (s.linkState = .rxActive ∨ (s.rxSlot s.rxIn).status = .free)) := by
  by_cases hin : i = s.rxIn
  · cases h with
    | rxAccept d _ hfree => exact .inr ⟨hin, .inr hfree⟩
    | rxAbort d hlink | rxContinue d hlink | rxComplete d hlink => exact .inr ⟨hin, .inl hlink⟩
    | _ => exact .inl fun _ => rfl
  · refine .inl fun a => ?_
    cases h with
    | rxAccept d _ _ => exact (s.rxCell_rxWrite s.rxIn i _ a d).trans (if_neg fun h => hin h.1)
    | rxAbort d | rxContinue d => exact s.rxCell_rxTake_of_ne d (.inl hin)
    | rxComplete d _ => exact (State.rxCell_setRxStatus ..).trans (s.rxCell_rxTake_of_ne d (.inl hin))
    | _ => rfl

/-- MAIN writes no cell of a receive slot. -/
theorem Effect.rxCell_cases {s u : State} (h : Effect s u) (i : BitVec 1) :
    (∀ a, u.rxCell i a = s.rxCell i a) ∨
      (i = s.rxIn ∧ (s.linkState = .rxActive ∨ (s.rxSlot s.rxIn).status = .free)) := by
  cases h with
  | handler hh => exact hh.rxCell_cases i
  | release => exact .inl (s.rxCell_setRxStatus s.rxOut i .free)
  | initRegisters =>
    refine .inl fun a => ?_
    obtain rfl | rfl := slot_cases i <;> rfl
  | _ => exact .inl fun _ => rfl

/-- Settles O52: the slot that the handler stores in is FREE. -/
theorem completeSlotIsNeverWritten : Obligations.CompleteSlotIsNeverWritten := by
  intro s t i hlink hfull h
  have hcases := (step_effect h).rxCell_cases i
  obtain hsame | ⟨hin, hwhy⟩ := hcases
  · exact hsame
  · have hfree : (s.rxSlot s.rxIn).status = .free := hwhy.elim (fun hactive => (hlink.1 hactive).1) id
    exact absurd ((hin ▸ hfull).symm.trans hfree) nofun

/-- What happens to the STATUS of one slot (R39). -/
def StatusMove (s u : State) (i : BitVec 1) : Prop :=
  (u.rxSlot i).status = (s.rxSlot i).status ∨
    ((u.rxSlot i).status = .free ∧ (s.main = .initBody ∨ i = s.rxOut ∧ u.main = .releaseToggle)) ∨
    ((u.rxSlot i).status = .complete ∧ i = s.rxIn ∧ s.linkState = .rxActive ∧ u.rxIn = s.rxIn ^^^ 1)

theorem HandlerEffect.statusMove {s u : State} (h : HandlerEffect s u) (i : BitVec 1) : StatusMove s u i := by
  cases h with
  | rxAccept d _ _ => exact .inl (State.rxWrite_status ..)
  | rxAbort d _ | rxContinue d _ _ => exact .inl (s.rxTake_status d i)
  | rxComplete d hlink =>
    by_cases hin : i = s.rxIn
    · subst hin
      exact .inr (.inr ⟨congrArg RxSlot.status (State.rxSlot_setRxSlot_self ..), rfl, hlink, rfl⟩)
    · exact .inl ((congrArg RxSlot.status (State.rxSlot_setRxSlot_of_ne _ _ hin)).trans (s.rxTake_status d i))
  | _ => exact .inl rfl

theorem Effect.statusMove {s u : State} (h : Effect s u) (i : BitVec 1) : StatusMove s u i := by
  cases h with
  | handler hh => exact hh.statusMove i
  | initRegisters hmain =>
    refine .inr (.inl ⟨?_, .inl hmain⟩)
    obtain rfl | rfl := slot_cases i <;> rfl
  | release m _ _ =>
    by_cases hout : i = s.rxOut
    · subst hout
      exact .inr (.inl ⟨congrArg RxSlot.status (State.rxSlot_setRxSlot_self ..), .inr ⟨rfl, rfl⟩⟩)
    · exact .inl (congrArg RxSlot.status (State.rxSlot_setRxSlot_of_ne _ _ hout))
  | _ => exact .inl rfl

/-- Settles O53. -/
theorem slotStatusChangesOnlyAsGiven : Obligations.SlotStatusChangesOnlyAsGiven := by
  intro s t i h
  have hmove : StatusMove s t i := (step_effect h).statusMove i
  obtain hsame | ⟨hfree, hwhy⟩ | ⟨hfull, hwhy⟩ := hmove
  · exact ⟨fun hc hf => absurd (hc.symm.trans (hsame.symm.trans hf)) nofun,
      fun hf hc => absurd (hf.symm.trans (hsame.symm.trans hc)) nofun⟩
  · exact ⟨fun _ _ => hwhy, fun _ hc => absurd (hfree.symm.trans hc) nofun⟩
  · exact ⟨fun _ hf => absurd (hfull.symm.trans hf) nofun, fun _ _ => hwhy⟩

/-! ## Transmission (R29, R31, R91) -/

theorem HandlerEffect.txCell_eq {s u : State} (h : HandlerEffect s u) (a : Nat) : u.txCell a = s.txCell a := by
  cases h <;> rfl

/-- While a frame is queued, WRITE_TXP alone can alter it, and M_TXWRITE then tells. -/
theorem Effect.txCell_cases {s u : State} (h : Effect s u) (hocc : s.txStatus = .occupied) :
    (∀ a, u.txCell a = s.txCell a) ∨ u.misuse = s.misuse ||| maskTxWrite := by
  cases h with
  | handler hh => exact .inl hh.txCell_eq
  | queue type length data _ hfree _ => exact absurd (hocc.symm.trans hfree) nofun
  | writeTxp index value m _ hm =>
    obtain ⟨-, rfl⟩ | ⟨hfree, -⟩ := hm
    · exact .inr rfl
    · exact absurd (hocc.symm.trans hfree) nofun
  | _ => exact .inl fun _ => rfl

/-- Settles O54. -/
theorem queuedFrameIsNotAltered : Obligations.QueuedFrameIsNotAltered := by
  intro s t hocc h hclear
  have hcases : (∀ a, t.txCell a = s.txCell a) ∨ t.misuse = s.misuse ||| maskTxWrite :=
    (step_effect h).txCell_cases hocc
  obtain hsame | hset := hcases
  · exact hsame
  · rw [hset] at hclear
    exact absurd hclear (or_and_self_ne_zero (by decide))

/-- T3 alone makes LINK_STATE TX, with no byte sent yet. -/
theorem Effect.linkState_tx {s u : State} (h : Effect s u) (hs : s.linkState ≠ .tx) (hu : u.linkState = .tx) :
    s.main = .tickStart ∧ u.byteCount = 0 := by
  cases h with
  | handler hh =>
    cases hh with
    | rxAccept | rxAbort | rxComplete | txDone => cases hu
    | _ => exact absurd hu hs
  | initRegisters => cases hu
  | tickTransmit l hmain _ => exact ⟨hmain, rfl⟩
  | _ => exact absurd hu hs

/-- Settles O55: the gate of T3 is what the link invariant says of that position. -/
theorem transmissionStartsOnlyInTick : Obligations.TransmissionStartsOnlyInTick := by
  intro s t hlink h hs ht
  obtain ⟨hmain, hcount⟩ := (step_effect h).linkState_tx hs ht
  obtain ⟨-, -, -, ⟨-, hgate⟩, -⟩ := hlink
  obtain ⟨hocc, hzero⟩ := hgate hmain
  exact ⟨hmain, hzero, hocc, hcount⟩

end Sys2Proof.Machine
end

section
/-! PROOF. The prologue of a handler invocation (R103 to R105), power-on (R50), and runs from power-on (R45 to R49,
R54). -/

namespace Sys2Proof.Machine

/-! ## The prologue -/

/-- One invocation of the handler is what agent IRQ and SERVICE run (R100, R101). -/
theorem handlerGives_of_handler {s t : State} (h : handler s = .next t) : HandlerGives s t := by
  constructor
  · intro hie hpoll
    have hpermitted : s.irqPermitted = true := by simp [State.irqPermitted, hie, hpoll]
    exact (if_pos hpermitted).trans h
  · intro hpoll
    have hrun : exec .service s = serviceReturn (handler s) := if_pos hpoll
    rw [hrun, h]
    rfl

/-- R105: with FFIT = 0 there is the prologue and nothing else. -/
theorem handler_of_no_flag {s : State} (h : ffit s.params (statusAnswerOf s) = false) :
    handler s = .next (prologueState s) := by
  rw [handler_eq, if_neg (by simp [h])]

/-- R137: a word is reserved when it is one of the six kinds. -/
theorem not_reserved_iff (t : SpiWords) (w : Word16) :
    t.reserved w = false ↔ w ≠ t.statusRead ∧ w ≠ t.fifoRead ∧ w.extractLsb' 8 8 ≠ t.txWriteHi ∧ w ≠ t.fifoClear ∧
      w ≠ t.fifoAccept ∧ w ≠ t.xcvrReset := by
  simp [SpiWords.reserved, and_assoc]

/-- Settles O25. -/
theorem noFifoFlagTouchesNoFrameState : Obligations.NoFifoFlagTouchesNoFrameState := by
  intro s
  refine ⟨fun hflag => handlerGives_of_handler (handler_of_no_flag hflag), fun hwake hlow => ?_, fun w hw => ?_,
    fun hflags => ?_⟩
  · have haux : auxResultOf s = ([], s.auxState) := auxResult_of_flags_off hwake hlow ..
    simp only [prologueState, haux]
    rfl
  · obtain ⟨hstatus, hfifo, htx, hrest⟩ := (not_reserved_iff ..).mp (auxResult_not_reserved hw)
    refine ⟨hstatus, hfifo, fun b hb => ?_, hrest⟩
    subst hb
    exact htx (txWriteWord_hi s.params.spi b)
  · have haux := auxResult_of_flag_on hflags (statusAnswerOf s) s.auxState
    exact ⟨congrArg (fun r => r.2.value) haux, congrArg Prod.fst haux⟩

/-! ## Power-on -/

theorem powerOn_rxCell (p : Params) (i : BitVec 1) (a : Nat) : (State.powerOn p).rxCell i a = none := by
  obtain rfl | rfl := slot_cases i <;> rfl

/-- R40: but for the two constants every cell of TXFRAME is UNSPEC. -/
theorem powerOn_txCell (p : Params) {a : Nat} (h : 2 ≤ a) : (State.powerOn p).txCell a = none := by
  have hframe : (State.powerOn p).txFrame.byteAt a = none := rfl
  rw [State.txCell, if_neg (by omega), if_neg (by omega), hframe, ite_self]

/-- Settles O41. -/
theorem powerOnValues : Obligations.PowerOnValues := fun p =>
  ⟨rfl, rfl, rfl, rfl, rfl, rfl, rfl, rfl, rfl, rfl, rfl, powerOn_rxCell p, rfl, rfl, fun _ h => powerOn_txCell p h,
    rfl, rfl, rfl⟩

/-! ## A step always exists (R54, R141) -/

/-- R54: in TX, BYTE_COUNT stays below the end of TXFRAME as long as there is a byte to send. -/
theorem handleTx_goes {s : State} (hlink : s.linkState = .tx) (htx : TxInv s) (hqueue : QueueInv s) :
    Goes (handleTx s) := by
  unfold handleTx
  split
  · next hlt =>
    obtain ⟨hocc, -, hlen⟩ := htx hlink
    obtain ⟨l, hl, hfits⟩ := txCell_len_of_headerQueued (hqueue hocc)
    rw [hl, Option.map_some, Option.some.injEq] at hlen
    rw [BitVec.lt_def] at hlt
    rw [if_pos (by unfold txFrameSize; omega)]
    exact ⟨_, rfl⟩
  · exact ⟨_, rfl⟩

theorem handler_goes {s : State} (hs : LinkInv s) : Goes (handler s) := by
  obtain ⟨-, htx, hqueue, -, -⟩ := hs
  rw [handler_eq]
  split
  · split
    · exact ⟨_, rfl⟩
    · exact ⟨_, rfl⟩
    · next hlink => exact handleTx_goes (s := prologueState s) hlink htx hqueue
  · exact ⟨_, rfl⟩

/-- Only the handler's TX branch can stop (R141). -/
theorem exec_goes {s : State} (hs : LinkInv s) (i : Instr) : Goes (exec i s) := by
  cases i with
  | irqEvent =>
    show Goes (execIrqEvent s)
    unfold execIrqEvent
    split
    · exact handler_goes hs
    · exact ⟨_, rfl⟩
  | service =>
    show Goes (execService s)
    unfold execService
    split
    · obtain ⟨t, ht⟩ := handler_goes hs
      rw [ht]
      exact ⟨_, rfl⟩
    · exact ⟨_, rfl⟩
  | _ => exact ⟨_, rfl⟩

/-- A step exists unless a word that is no command stands on the SPI port. -/
theorem step_goes {s : State} (hs : LinkInv s)
    (hport : ∀ w rest, s.schedule = .spi w :: rest → ∃ i, decodeSpi s.params.spi s.params.ewb w = .ok i) :
    Goes (step s) := by
  obtain ⟨rest, s', rfl, hcases⟩ := step_cases (s := s) rfl
  have hs' : LinkInv { s with schedule := rest } := hs
  rcases hcases with ⟨-, ho⟩ | ⟨i, -, ho⟩ | ⟨c, -, -, ho⟩ | ⟨-, ho⟩ | ⟨w, i, -, -, ho⟩ | ⟨w, e, hspi, hdec, -⟩
  · exact ⟨_, ho⟩
  · exact ho ▸ exec_goes hs' i
  · exact ho ▸ exec_goes hs' _
  · exact ho ▸ exec_goes hs' _
  · exact ho ▸ exec_goes hs' i
  · obtain ⟨i, hi⟩ := hport w rest hspi
    exact absurd (hdec.symm.trans hi) nofun

/-! ## The schedule -/

theorem main_idle_of_no_operation {pos : MainPos} (h : operationAt pos = none) : pos = .idle := by
  cases pos with
  | idle => rfl
  | _ => cases h

/-- MAIN's turn leaves the schedule as it finds it. -/
theorem schedule_eq_of_mainTurn {s s' t : State} (hf : fetch s = mainTurn s') (h : step s = .next t) :
    t.schedule = s'.schedule := by
  cases hop : operationAt s'.main with
  | none =>
    rw [step_of_wait (hf.trans (mainTurn_of_idle (main_idle_of_no_operation hop)))] at h
    cases h
    rfl
  | some i =>
    rw [step_of_resume (hf.trans (mainTurn_of_operation hop))] at h
    exact (exec_effect_of_operation hop h).schedule_eq

/-- A step leaves the schedule alone or takes its head off (R6, R7). -/
theorem step_schedule {s t : State} (h : step s = .next t) :
    t.schedule = s.schedule ∨ t.schedule = s.schedule.tail := by
  cases hsch : s.schedule with
  | nil => exact .inl ((schedule_eq_of_mainTurn (fetch_of_nil hsch) h).trans hsch)
  | cons e rest =>
    cases e with
    | proceed => exact .inr (schedule_eq_of_mainTurn (fetch_of_proceed hsch) h)
    | issue c =>
      cases hop : operationAt s.main with
      | some i =>
        rw [step_of_resume (fetch_of_issue_inside hsch hop)] at h
        exact .inl ((exec_effect_of_operation hop h).schedule_eq.trans hsch)
      | none =>
        simp only [step, fetch, hsch, hop, decode] at h
        have heff := exec_effect_of_idle (s := { s with schedule := rest }) (main_idle_of_no_operation hop) h
        exact .inr heff.schedule_eq
    | irq =>
      simp only [step, fetch, hsch, decode] at h
      exact .inr (execIrqEvent_effect h).schedule_eq
    | spi w =>
      simp only [step, fetch, hsch, decode] at h
      split at h
      · next i hdec => exact .inr (congrArg State.schedule (exec_block_of_isSpiCommand (decodeSpi_isSpiCommand hdec) h))
      · cases h

theorem linkOnly_tail {l : List Event} (h : linkOnly l = true) : linkOnly l.tail = true := by
  cases l with
  | nil => rfl
  | cons e rest =>
    cases e with
    | spi w => cases h
    | _ => exact h

/-! ## Runs -/

/-- What every state of a run from power-on meets when nothing is put on the SPI port by itself. -/
def RunInv (s : State) : Prop := LinkInv s ∧ RingInv s ∧ linkOnly s.schedule = true

theorem runInv_powerOn (p : Params) {schedule : List Event} (status : List Word16) (fifo : List Byte) (draws : Nat)
    (h : linkOnly schedule = true) : RunInv ((State.powerOn p).withEnvironment schedule status fifo draws) :=
  ⟨linkInv_of_quiet rfl rfl rfl, ringInv_of_agree rfl rfl rfl, h⟩

theorem step_keeps_runInv {s : State} (hs : RunInv s) : ∃ t, step s = .next t ∧ RunInv t := by
  obtain ⟨hlink, hring, hsch⟩ := hs
  have hport : ∀ w rest, s.schedule = .spi w :: rest → ∃ i, decodeSpi s.params.spi s.params.ewb w = .ok i := by
    intro w rest hspi
    rw [hspi] at hsch
    cases hsch
  obtain ⟨t, ht⟩ := step_goes hlink hport
  refine ⟨t, ht, stepKeepsLinkInvariant s t hlink ht, stepKeepsRingInvariant s t hlink hring ht, ?_⟩
  obtain hsame | htail := step_schedule ht
  · exact hsame ▸ hsch
  · exact htail ▸ linkOnly_tail hsch

theorem run_succ_of_step {M : Host.Core} {s u : M.State} (h : M.step s = .next u) (n : Nat) :
    M.run (n + 1) s = M.run n u := by
  rw [Host.Core.run, h]

/-- A property whose every state has a next one with the property holds at the end of a run of any length. -/
theorem run_of_step {P : State → Prop} (hstep : ∀ s, P s → ∃ t, step s = .next t ∧ P t) (n : Nat) {s : State}
    (hs : P s) : ∃ t, Host.Core.run core n s = .next t ∧ P t := by
  induction n generalizing s with
  | zero => exact ⟨s, rfl, hs⟩
  | succ n ih =>
    obtain ⟨u, hu, hPu⟩ := hstep s hs
    obtain ⟨t, ht, hPt⟩ := ih hPu
    exact ⟨t, (run_succ_of_step (M := core) hu n).trans ht, hPt⟩

/-- Settles O51. -/
theorem everyRunGoesOnWithinTheInvariants : Obligations.EveryRunGoesOnWithinTheInvariants := by
  intro p schedule status fifo draws n hsch
  obtain ⟨t, hrun, hlink, hring, -⟩ :=
    run_of_step (fun _ => step_keeps_runInv) n (runInv_powerOn p status fifo draws hsch)
  exact ⟨t, hrun, hlink, hring⟩

end Sys2Proof.Machine
end

section
/-! PROOF. Memory and the interfaces: what a step runs (spec/00_scope.md R7, spec/41_irq_service.md R101), the accessors
on an UNSPEC cell (spec/20_memory.md R55), and that every step keeps the buffer spaces canonical and in bounds (R51 to
R53, R59). -/

namespace Sys2Proof.Machine

/-! ## What stands at an interface (R64) -/

theorem fetch_of_issue_idle {s : State} {c : HostCmd} {rest : List Event} (hm : s.main = .idle)
    (h : s.schedule = .issue c :: rest) : fetch s = .present (.host c) { s with schedule := rest } := by
  simp only [fetch, h, hm, operationAt]

theorem fetch_of_irq {s : State} {rest : List Event} (h : s.schedule = .irq :: rest) :
    fetch s = .present .event { s with schedule := rest } := by
  simp only [fetch, h]

theorem fetch_of_spi {s : State} {w : Word16} {rest : List Event} (h : s.schedule = .spi w :: rest) :
    fetch s = .present (.spi w) { s with schedule := rest } := by
  simp only [fetch, h]

theorem step_of_present {s s' : State} {e : Encoded} {i : Instr} (hf : fetch s = .present e s')
    (hd : decode s'.params e = .ok i) : step s = exec i s' := by
  simp only [step, hf, hd]

/-- Settles O6, by what `fetch` presents for each event at the schedule's head. -/
theorem stepRunsDecodedInstruction : Obligations.StepRunsDecodedInstruction :=
  ⟨fun _ _ _ hm hissue => step_of_present (fetch_of_issue_idle hm hissue) rfl,
    fun _ _ hirq => step_of_present (fetch_of_irq hirq) rfl,
    fun _ _ _ _ hspi hdec => step_of_present (fetch_of_spi hspi) hdec⟩

/-- Settles O50: in the link invariant BYTE_COUNT is inside TXFRAME wherever the handler reads it. -/
theorem stepNeverStops : Obligations.StepNeverStops :=
  fun _ hlink hport => step_goes hlink hport

/-! ## The accessors (R95 to R97) -/

/-- Each accessor whose index is in bounds returns the cell it names. -/
theorem exec_accessor {s : State} {i : Instr} {off : Nat}
    (h : i = .getLen ∧ off = 0 ∨ i = .getType ∧ off = 1 ∨
      ∃ A : Byte, i = .readRxp A ∧ A.toNat < s.params.rxBufferSize ∧ off = 3 + A.toNat) :
    exec i s = .next (s.returnRxByte i off) := by
  obtain ⟨rfl, rfl⟩ | ⟨rfl, rfl⟩ | ⟨A, rfl, hA, rfl⟩ := h
  · rfl
  · rfl
  · have hok : rxIndexOk s.params A = true := decide_eq_true hA
    show execReadRxp A s = _
    rw [execReadRxp, if_pos hok]
    rfl

/-- R55: an UNSPEC cell reads as the next draw and stays as it is. -/
theorem State.returnRxByte_of_none {s : State} {off : Nat} (op : Instr) (h : s.rxCell s.rxOut off = none) :
    s.returnRxByte op off = { s with
      draws := s.draws + 1, main := .idle, hostRes := some (resByte s.drawCell.1)
      obs := .result op (resByte s.drawCell.1) :: s.obs } := by
  rw [State.returnRxByte, State.rxRead_of_none h]
  rfl

/-- Settles O20. -/
theorem accessorsOnUnspecCellDraw : Obligations.AccessorsOnUnspecCellDraw := by
  intro s i off hi hnone
  refine ⟨s.drawCell.1, rfl, ?_⟩
  rw [exec_accessor hi, State.returnRxByte_of_none i hnone]
  rfl

/-! ## A buffer space in canonical form and in bounds (R51 to R53) -/

/-- Canonical, and no cell outside the interval is listed. -/
def Memory.Fits (m : Memory) (lo hi : Nat) : Prop := m.wf ∧ m.within lo hi

theorem Memory.Fits.store {m : Memory} {lo hi k : Nat} (h : m.Fits lo hi) (hlo : lo ≤ k) (hhi : k < hi) (v : Byte) :
    (m.store k v).Fits lo hi := by
  obtain ⟨hwf, hin⟩ := h
  exact ⟨Memory.wf_store hwf k v, Memory.within_store hin hlo hhi v⟩

theorem Memory.Fits.storeList {m : Memory} {lo hi k : Nat} (h : m.Fits lo hi) (hlo : lo ≤ k) {d : List Byte}
    (hhi : k + d.length ≤ hi) : (m.storeList k d).Fits lo hi := by
  obtain ⟨hwf, hin⟩ := h
  exact ⟨Memory.wf_storeList hwf k d, Memory.within_storeList hin hlo d hhi⟩

/-- Both receive slots, R52. -/
def State.SlotsFit (s : State) : Prop := ∀ i, (s.rxSlot i).cells.Fits 0 (rxSlotSize s.params)

/-- A TXFRAME that lists header and payload cells only, R53. -/
def Memory.FitsFrame (m : Memory) (p : Params) : Prop := m.Fits txLenOffset (txPayloadOffset p.txBufferSize)

theorem memInv_iff_fits (s : State) : MemInv s ↔ s.SlotsFit ∧ s.txFrame.FitsFrame s.params := by
  constructor
  · rintro ⟨hwf0, hin0, hwf1, hin1, htx⟩
    refine ⟨fun i => ?_, htx⟩
    obtain rfl | rfl := slot_cases i
    · exact ⟨hwf0, hin0⟩
    · exact ⟨hwf1, hin1⟩
  · rintro ⟨hslots, htx⟩
    obtain ⟨hwf0, hin0⟩ := hslots 0
    obtain ⟨hwf1, hin1⟩ := hslots 1
    exact ⟨hwf0, hin0, hwf1, hin1, htx⟩

/-! ## The receive slots -/

@[simp] theorem State.setRxStatus_cells (s : State) (i j : BitVec 1) (v : SlotStatus) :
    ((s.setRxStatus i v).rxSlot j).cells = (s.rxSlot j).cells := by
  unfold State.setRxStatus
  by_cases h : j = i
  · subst h
    rw [State.rxSlot_setRxSlot_self]
  · rw [State.rxSlot_setRxSlot_of_ne _ _ h]

theorem State.SlotsFit.setRxStatus {s : State} (h : s.SlotsFit) (i : BitVec 1) (v : SlotStatus) (j : BitVec 1) :
    ((s.setRxStatus i v).rxSlot j).cells.Fits 0 (rxSlotSize s.params) := by
  rw [State.setRxStatus_cells]
  exact h j

theorem State.SlotsFit.rxWrite {s : State} (h : s.SlotsFit) (i : BitVec 1) {off : Nat}
    (hoff : off < rxSlotSize s.params) (v : Byte) (j : BitVec 1) :
    ((s.rxWrite i off v).rxSlot j).cells.Fits 0 (rxSlotSize s.params) := by
  unfold State.rxWrite
  by_cases hj : j = i
  · subst hj
    rw [State.rxSlot_setRxSlot_self]
    exact (h j).store (Nat.zero_le _) hoff v
  · rw [State.rxSlot_setRxSlot_of_ne _ _ hj]
    exact h j

/-- R109: a byte for which the slot has no cell is dropped. -/
theorem State.SlotsFit.rxTake {s : State} (h : s.SlotsFit) (d : Byte) : (s.rxTake d).SlotsFit := by
  intro j
  show ((s.rxStoreBounded s.byteCount.toNat d).rxSlot j).cells.Fits 0 (rxSlotSize s.params)
  unfold State.rxStoreBounded
  split
  · next hk => exact h.rxWrite s.rxIn hk d j
  · exact h j

theorem HandlerEffect.keeps_slotsFit {s u : State} (h : HandlerEffect s u) (hs : s.SlotsFit) : u.SlotsFit := by
  cases h with
  | rxAccept d _ _ => exact hs.rxWrite s.rxIn (Nat.succ_pos _) d
  | rxAbort d | rxContinue d => exact hs.rxTake d
  | rxComplete d => exact (hs.rxTake d).setRxStatus s.rxIn .complete
  | _ => exact hs

theorem Effect.keeps_slotsFit {s u : State} (h : Effect s u) (hs : s.SlotsFit) : u.SlotsFit := by
  cases h with
  | handler hh => exact hh.keeps_slotsFit hs
  | release => exact hs.setRxStatus s.rxOut .free
  | initRegisters =>
    intro i
    have hcells := hs i
    obtain rfl | rfl := slot_cases i <;> exact hcells
  | _ => exact hs

/-! ## The transmit frame

`Effect.queue` leaves the length of COPY_ENQUEUE's data open, so what MAIN stores between operations is read off the
instruction here. -/

/-- TXFRAME as one step can leave it in the build `p`, from the frame `m`. -/
inductive FrameWrite (p : Params) (m : Memory) : Memory → Prop
  /-- No cell is written. -/
  | none : FrameWrite p m m
  /-- WRITE_TXP (R93). -/
  | payload (index value : Byte) (hindex : index.toNat < p.txBufferSize) :
      FrameWrite p m (m.store (txPayloadOffset index.toNat) value)
  /-- ENQUEUE, with no data, or COPY_ENQUEUE (R91, R92). -/
  | frame (type length : Byte) (data : List Byte) (hdata : data.length ≤ p.txBufferSize) :
      FrameWrite p m ((m.storeList (txPayloadOffset 0) data).storeHeader type length)

theorem FrameWrite.of_eq {p : Params} {m m' : Memory} (h : m' = m) : FrameWrite p m m' := h ▸ .none

theorem Memory.FitsFrame.storeHeader {m : Memory} {p : Params} (h : m.FitsFrame p) (type length : Byte) :
    (m.storeHeader type length).FitsFrame p := by
  have hbound : txChkOffset < txPayloadOffset p.txBufferSize := Nat.lt_add_right _ (by decide)
  have hlen := h.store (k := txLenOffset) (by decide) (lt_trans (by decide) hbound) length
  have htype := hlen.store (k := txTypeOffset) (by decide) (lt_trans (by decide) hbound) type
  exact htype.store (k := txChkOffset) (by decide) hbound (headerChecksum length type)

/-- R53, R59: the three cells of the header and the payload area are all inside TXFRAME. -/
theorem FrameWrite.keeps_fitsFrame {p : Params} {m m' : Memory} (h : FrameWrite p m m') (hm : m.FitsFrame p) :
    m'.FitsFrame p := by
  cases h with
  | none => exact hm
  | payload index value hindex =>
    exact hm.store (le_trans (by decide) (Nat.le_add_right 5 _)) (Nat.add_lt_add_left hindex 5) value
  | frame type length data hdata =>
    have hcopy : (m.storeList (txPayloadOffset 0) data).FitsFrame p :=
      hm.storeList (by decide) (Nat.add_le_add_left hdata 5)
    exact hcopy.storeHeader type length

theorem HandlerEffect.txFrame_eq {s u : State} (h : HandlerEffect s u) : u.txFrame = s.txFrame := by
  cases h <;> rfl

/-- Inside an operation no frame is queued. -/
theorem Effect.frameWrite_of_not_idle {s u : State} (h : Effect s u) (hmain : s.main ≠ .idle) :
    FrameWrite s.params s.txFrame u.txFrame := by
  cases h with
  | handler hh => exact .of_eq hh.txFrame_eq
  | queue type length data hidle _ _ => exact absurd hidle hmain
  | writeTxp index value m hindex _ => exact .payload index value hindex
  | _ => exact .none

@[simp] theorem State.setIe_txFrame (s : State) (v : Bool) : (s.setIe v).txFrame = s.txFrame := by
  rw [State.setIe_eq]

@[simp] theorem State.setMisuse_txFrame (s : State) (m : Byte) : (s.setMisuse m).txFrame = s.txFrame := by
  rw [State.setMisuse_eq]

@[simp] theorem State.raiseIllegal_txFrame (s : State) (op : Instr) : (s.raiseIllegal op).txFrame = s.txFrame := by
  rw [State.raiseIllegal_eq]

@[simp] theorem State.raiseBadIndex_txFrame (s : State) (op : Instr) (i : Byte) :
    (s.raiseBadIndex op i).txFrame = s.txFrame := by
  rw [State.raiseBadIndex_eq]

@[simp] theorem State.returnRxByte_txFrame (s : State) (op : Instr) (off : Nat) :
    (s.returnRxByte op off).txFrame = s.txFrame :=
  have hread : (s.rxRead s.rxOut off).2.block.txFrame = s.block.txFrame := by rw [State.rxRead_block]
  hread

@[simp] theorem releaseStart_txFrame (s : State) : (releaseStart s).txFrame = s.txFrame := by
  cases h : (s.rxSlot s.rxOut).status with
  | complete => rw [releaseStart_of_complete h]
  | free => rw [releaseStart_of_free h]

@[simp] theorem tickT0_txFrame (s : State) : (tickT0 s).txFrame = s.txFrame := by
  unfold tickT0
  split <;> rfl

theorem exec_txFrame_of_isSpiCommand {s t : State} {i : Instr} (hi : isSpiCommand i = true) (h : exec i s = .next t) :
    t.txFrame = s.txFrame := by
  have hblock : t.block.txFrame = s.block.txFrame := by rw [exec_block_of_isSpiCommand hi h]
  exact hblock

theorem execIrqEvent_txFrame {s t : State} (h : exec .irqEvent s = .next t) : t.txFrame = s.txFrame := by
  change execIrqEvent s = .next t at h
  unfold execIrqEvent at h
  split at h
  · exact (handler_effect h).txFrame_eq
  · cases h
    rfl

theorem execService_txFrame {s t : State} (h : exec .service s = .next t) : t.txFrame = s.txFrame := by
  change execService s = .next t at h
  unfold execService at h
  split at h
  · cases hrun : handler s with
    | next u =>
      rw [hrun] at h
      cases h
      exact (handler_effect hrun).txFrame_eq
    | fault => rw [hrun] at h; cases h
    | refused => rw [hrun] at h; cases h
  · cases h
    exact State.raiseIllegal_txFrame ..

theorem enqueueOp_frameWrite (type length : Byte) (s : State) :
    FrameWrite s.params s.txFrame (enqueueOp type length s).txFrame := by
  unfold enqueueOp
  split
  · exact .none
  · split
    · exact .frame type length [] (Nat.zero_le _)
    · exact .none

/-- The data vector is as long as the length that was tested (R78(e), R92). -/
theorem copyEnqueueOp_frameWrite {type length : Byte} {data : List Byte} (hdata : data.length = length.toNat)
    (s : State) : FrameWrite s.params s.txFrame (copyEnqueueOp type length data s).txFrame := by
  unfold copyEnqueueOp
  split
  · exact .none
  · split
    · next hlen => exact .frame type length data (hdata.le.trans (of_decide_eq_true hlen))
    · exact .none

theorem writeTxpOp_frameWrite (index value : Byte) (s : State) :
    FrameWrite s.params s.txFrame (writeTxpOp index value s).txFrame := by
  unfold writeTxpOp
  split
  · next hindex =>
    have hlt : index.toNat < s.params.txBufferSize := of_decide_eq_true hindex
    cases s.txStatus with
    | free => exact .payload index value hlt
    | occupied =>
      simp only [State.finish_txFrame, State.txStore_txFrame, State.setMisuse_txFrame]
      exact .payload index value hlt
  · exact .of_eq (State.raiseBadIndex_txFrame ..)

/-- Between operations, only ENQUEUE, COPY_ENQUEUE and WRITE_TXP store in TXFRAME. -/
theorem exec_frameWrite_of_idle {s t : State} {i : Instr} (hmain : s.main = .idle) (h : exec i s = .next t) :
    FrameWrite s.params s.txFrame t.txFrame := by
  cases i with
  | enqueue type length => cases h; exact enqueueOp_frameWrite ..
  | copyEnqueue type length data =>
    cases h
    split
    · next hdata => exact copyEnqueueOp_frameWrite hdata s
    · exact .of_eq (State.raiseIllegal_txFrame ..)
  | writeTxp index value => cases h; exact writeTxpOp_frameWrite ..
  | init | swReset =>
    simp only [exec, execInit, execSwReset, hmain] at h
    cases h
    exact .of_eq (State.setIe_txFrame ..)
  | release =>
    simp only [exec, execRelease, hmain] at h
    cases h
    exact .of_eq (releaseStart_txFrame s)
  | tick =>
    simp only [exec, execTick, hmain] at h
    cases h
    exact .of_eq (tickT0_txFrame s)
  | poll => cases h; exact .none
  | getLen | getType => cases h; exact .of_eq (State.returnRxByte_txFrame ..)
  | readRxp index =>
    cases h
    split
    · exact .of_eq (State.returnRxByte_txFrame ..)
    · exact .of_eq (State.raiseBadIndex_txFrame ..)
  | service => exact .of_eq (execService_txFrame h)
  | illegal word data => cases h; exact .of_eq (State.raiseIllegal_txFrame ..)
  | irqEvent => exact .of_eq (execIrqEvent_txFrame h)
  | configSeq => rw [exec_configSeq, State.spiSeq_eq] at h; cases h; exact .none
  | auxWords ws => rw [exec_auxWords, State.spiSeq_eq] at h; cases h; exact .none
  | _ => exact .of_eq (exec_txFrame_of_isSpiCommand rfl h)

/-- The schedule that a step moves on is no part of TXFRAME. -/
theorem step_frameWrite {s t : State} (h : step s = .next t) : FrameWrite s.params s.txFrame t.txFrame := by
  obtain ⟨rest, s', hs', hcases⟩ := step_cases h
  have hmain : s'.main = s.main := by rw [hs']
  suffices hw : FrameWrite s'.params s'.txFrame t.txFrame by rwa [hs'] at hw
  rcases hcases with ⟨-, ht⟩ | ⟨i, hop, ht⟩ | ⟨c, hidle, -, ht⟩ | ⟨-, ht⟩ | ⟨w, i, -, hdec, ht⟩ | ⟨w, e, -, -, ht⟩
  · cases ht
    exact .none
  · rw [← hmain] at hop
    have hinside : s'.main ≠ .idle := fun hidle => by rw [hidle] at hop; cases hop
    exact (exec_effect_of_operation hop ht.symm).frameWrite_of_not_idle hinside
  · exact exec_frameWrite_of_idle (hmain.trans hidle) ht.symm
  · exact .of_eq (execIrqEvent_txFrame ht.symm)
  · exact .of_eq (exec_txFrame_of_isSpiCommand (decodeSpi_isSpiCommand hdec) ht.symm)
  · cases ht

/-- Settles O45: the handler's stores are bounded, and so are those of the three operations that fill TXFRAME. -/
theorem stepKeepsMemoryCanonical : Obligations.StepKeepsMemoryCanonical := by
  intro s t hs h
  obtain ⟨hslots, hframe⟩ := (memInv_iff_fits s).mp hs
  refine (memInv_iff_fits t).mpr ⟨(step_effect h).keeps_slotsFit hslots, ?_⟩
  rw [parametersNeverChange s t h]
  exact (step_frameWrite h).keeps_fitsFrame hframe

end Sys2Proof.Machine
end

section
/-! PROOF. The host command decoder (spec/30_encoding.md R75 to R79): the legal commands are the encodings of the host
operations, and the decoder gives each operation back. -/

namespace Sys2Proof

/-! ## Illegal commands (R78) -/

/-- R78, its cases (a) to (f) as propositions. -/
theorem illegalHost_iff (polling : Bool) (c : HostCmd) :
    illegalHost polling c = true ↔
      (hostOp c.word = 0xC ∨ hostOp c.word = 0xD ∨ hostOp c.word = 0xE ∨ hostOp c.word = 0xF) ∨
      (hostOp c.word = 0xB ∧ polling = false) ∨
      (hostRsv0 c.word ≠ 0 ∨ hostRsv1 c.word ≠ 0) ∨
      (usesNoOperand (hostOp c.word) = true ∧ (hostA c.word ≠ 0 ∨ hostB c.word ≠ 0)) ∨
      (hostOp c.word = 0x7 ∧ hostB c.word ≠ 0) ∨
      (hostOp c.word = 0x2 ∧ c.data.map List.length ≠ some (hostB c.word).toNat) ∨
      (hostOp c.word ≠ 0x2 ∧ c.data.isSome = true) := by
  simp [illegalHost, or_assoc]

/-- R76, R78(d): an operand where the operation has none. -/
theorem decodeOp_of_operand_unused {polling : Bool} {c : HostCmd} (hop : usesNoOperand (hostOp c.word) = true)
    (h : hostA c.word ≠ 0 ∨ hostB c.word ≠ 0) : decodeOp polling c = .illegal c.word c.data := by
  have hno : ∀ i, decodeNoOperands c i = .illegal c.word c.data := fun _ => if_pos h
  simp only [usesNoOperand, Bool.or_eq_true, decide_eq_true_eq, or_assoc] at hop
  rcases hop with hop | hop | hop | hop | hop | hop | hop | hop <;> simp [decodeOp, hop, hno]

/-- R76, R78(e): a data vector that is missing or has another length than B. -/
theorem decodeOp_of_data_mismatch {polling : Bool} {c : HostCmd} (hop : hostOp c.word = 0x2)
    (h : c.data.map List.length ≠ some (hostB c.word).toNat) : decodeOp polling c = .illegal c.word c.data := by
  cases hd : c.data with
  | none => simp [decodeOp, hop, hd]
  | some d =>
    have hlen : d.length ≠ (hostB c.word).toNat := by simpa [hd] using h
    simp [decodeOp, hop, hd, hlen]

/-- R79 gives ILLEGAL in each case of R78. -/
theorem decodeHost_of_illegal {polling : Bool} {c : HostCmd} (h : illegalHost polling c = true) :
    decodeHost polling c = .illegal c.word c.data := by
  unfold decodeHost
  split
  · rfl
  next hrsv =>
  split
  · rfl
  next hdata =>
  obtain hop | ⟨hop, rfl⟩ | hrsv' | ⟨hop, hoperand⟩ | ⟨hop, hb⟩ | ⟨hop, hlen⟩ | ⟨hop, hsome⟩ :=
    (illegalHost_iff polling c).mp h
  · rcases hop with hop | hop | hop | hop <;> simp [decodeOp, hop]
  · simp [decodeOp, hop]
  · exact absurd hrsv' hrsv
  · exact decodeOp_of_operand_unused hop hoperand
  · simpa [decodeOp, hop] using hb
  · exact decodeOp_of_data_mismatch hop hlen
  · exact absurd ⟨hsome, hop⟩ hdata

/-! ## Legal commands (R75 to R77) -/

/-- The instructions that legal host commands stand for (R77). -/
def Instr.isHostOperation : Instr → Bool
  | .init | .enqueue _ _ | .copyEnqueue _ _ _ | .writeTxp _ _ | .poll | .getLen | .getType | .readRxp _ | .release
  | .tick | .swReset | .service => true
  | _ => false

/-- A command word with its reserved fields 0 and no data vector is decoded by its OP. -/
theorem decodeHost_hostWord_none (polling : Bool) (op : BitVec 4) (a b : Byte) :
    decodeHost polling { word := hostWord op a b, data := none } =
      decodeOp polling { word := hostWord op a b, data := none } := by
  simp [decodeHost]

/-- R79: the decoder gives a well-formed host operation back from its encoding. -/
theorem decodeHost_of_encode {p : Params} {i : Instr} {c : HostCmd} (hop : i.isHostOperation = true)
    (hwf : i.wellFormed p = true) (h : encode p i = .host c) : decodeHost p.pollingBuild c = i := by
  cases i <;> cases hop <;> cases h
  case copyEnqueue type length data =>
    have hlen : data.length = length.toNat := of_decide_eq_true hwf
    simp [decodeHost, decodeOp, hlen]
  case service =>
    have hpoll : p.pollingBuild = true := hwf
    rw [decodeHost_hostWord_none]
    simp [decodeOp, decodeNoOperands, hpoll]
  all_goals
    rw [decodeHost_hostWord_none]
    simp [decodeOp, decodeNoOperands]

/-- R76, R77: the operations without operands, the four with operands, and the reserved OP values. -/
theorem hostOp_kinds (op : BitVec 4) :
    usesNoOperand op = true ∨ op = 0x1 ∨ op = 0x2 ∨ op = 0x3 ∨ op = 0x7 ∨
      (op = 0xC ∨ op = 0xD ∨ op = 0xE ∨ op = 0xF) := by
  revert op; decide

/-- R76 to R78: what is asked of a legal command with reserved fields 0. -/
theorem legal_hostWord_iff (polling : Bool) (op : BitVec 4) (a b : Byte) (data : Option (List Byte)) :
    illegalHost polling { word := hostWord op a b, data := data } = false ↔
      ¬ (op = 0xC ∨ op = 0xD ∨ op = 0xE ∨ op = 0xF) ∧ (op = 0xB → polling = true) ∧
      (usesNoOperand op = true → a = 0 ∧ b = 0) ∧ (op = 0x7 → b = 0) ∧
      (op = 0x2 → data.map List.length = some b.toNat) ∧ (op ≠ 0x2 → data = none) := by
  rw [← Bool.not_eq_true, illegalHost_iff]
  push Not
  simp

/-- R76, R77: a legal command with reserved fields 0 is the encoding of the host operation of its OP. -/
theorem exists_encode_of_legal_hostWord {p : Params} {op : BitVec 4} {a b : Byte} {data : Option (List Byte)}
    (h : illegalHost p.pollingBuild { word := hostWord op a b, data := data } = false) :
    ∃ i : Instr, i.isHostOperation = true ∧ i.wellFormed p = true ∧
      encode p i = .host { word := hostWord op a b, data := data } := by
  obtain ⟨hreserved, hpoll, hunused, hb, hlen, hnone⟩ := (legal_hostWord_iff ..).mp h
  obtain hno | rfl | rfl | rfl | rfl | hop := hostOp_kinds op
  · obtain ⟨rfl, rfl⟩ := hunused hno
    simp only [usesNoOperand, Bool.or_eq_true, decide_eq_true_eq, or_assoc] at hno
    obtain rfl | rfl | rfl | rfl | rfl | rfl | rfl | rfl := hno <;> obtain rfl := hnone (by decide)
    · exact ⟨.init, rfl, rfl, rfl⟩
    · exact ⟨.poll, rfl, rfl, rfl⟩
    · exact ⟨.getLen, rfl, rfl, rfl⟩
    · exact ⟨.getType, rfl, rfl, rfl⟩
    · exact ⟨.release, rfl, rfl, rfl⟩
    · exact ⟨.tick, rfl, rfl, rfl⟩
    · exact ⟨.swReset, rfl, rfl, rfl⟩
    · exact ⟨.service, rfl, hpoll rfl, rfl⟩
  · obtain rfl := hnone (by decide)
    exact ⟨.enqueue a b, rfl, rfl, rfl⟩
  · obtain ⟨d, rfl, hd⟩ := Option.map_eq_some_iff.mp (hlen rfl)
    exact ⟨.copyEnqueue a b d, rfl, decide_eq_true hd, rfl⟩
  · obtain rfl := hnone (by decide)
    exact ⟨.writeTxp a b, rfl, rfl, rfl⟩
  · obtain rfl := hnone (by decide)
    obtain rfl := hb rfl
    exact ⟨.readRxp a, rfl, rfl, rfl⟩
  · exact absurd hop hreserved

/-- R75 to R78: the legal host commands are encodings of host operations. -/
theorem exists_encode_of_legal {p : Params} {c : HostCmd} (h : illegalHost p.pollingBuild c = false) :
    ∃ i : Instr, i.isHostOperation = true ∧ i.wellFormed p = true ∧ encode p i = .host c := by
  obtain ⟨w, data⟩ := c
  have hrsv : hostRsv0 w = 0 ∧ hostRsv1 w = 0 := by
    rw [← Bool.not_eq_true, illegalHost_iff] at h
    tauto
  obtain ⟨h0, h1⟩ := hrsv
  rw [← hostWord_of_fields h0 h1] at h ⊢
  exact exists_encode_of_legal_hostWord h

/-- R79: what a host command decodes to, ILLEGAL or a well-formed host operation, has the command as its encoding. -/
theorem encode_decodeHost (p : Params) (c : HostCmd) : encode p (decodeHost p.pollingBuild c) = .host c := by
  cases h : illegalHost p.pollingBuild c with
  | true => rw [decodeHost_of_illegal h]; rfl
  | false =>
    obtain ⟨i, hop, hwf, henc⟩ := exists_encode_of_legal h
    rw [decodeHost_of_encode hop hwf henc, henc]

/-! ## The obligations -/

/-- Settles O1: a legal command decodes to a host operation, and ILLEGAL is none. -/
theorem hostCommandIllegalExactlyAsListed : Obligations.HostCommandIllegalExactlyAsListed := by
  intro polling c
  refine ⟨fun hdec => ?_, decodeHost_of_illegal⟩
  by_contra hlegal
  have hbuild : ∃ p : Params, p.pollingBuild = polling := ⟨{ (default : Params) with pollingBuild := polling }, rfl⟩
  obtain ⟨p, rfl⟩ := hbuild
  obtain ⟨i, hop, hwf, henc⟩ := exists_encode_of_legal (Bool.eq_false_iff.mpr hlegal)
  obtain rfl : i = .illegal c.word c.data := (decodeHost_of_encode hop hwf henc).symm.trans hdec
  cases hop

/-- Settles O2. -/
theorem hostDecodeLosesNothing : Obligations.HostDecodeLosesNothing := encode_decodeHost

end Sys2Proof
end

section
/-! PROOF. The SPI word decoder (spec/30_encoding.md R82, R83): what it gives has the raw word, and where the words are
distinct the word tells the command; with it, decoding after encoding for every instruction with fixed words. -/

namespace Sys2Proof.Machine

/-! ## A decoded word -/

/-- R82: the word of what a raw word decodes to is the raw word. -/
theorem encode_of_decodeSpi {p : Params} {w : Word16} {i : Instr} (h : decodeSpi p.spi p.ewb w = .ok i) :
    encode p i = .spi w := by
  unfold decodeSpi at h
  split at h
  · next hw => cases h; rw [hw]; rfl
  split at h
  · next hw => cases h; rw [hw]; rfl
  split at h
  · next hw => cases h; exact congrArg Encoded.spi (txWriteWord_of_hi hw)
  split at h
  · next hw => cases h; rw [hw]; rfl
  split at h
  · next hw => cases h; rw [hw]; rfl
  split at h
  · next hw => cases h; rw [hw]; rfl
  split at h
  · next j hj =>
    cases h
    obtain ⟨e, ⟨rfl, rfl⟩ | ⟨rfl, rfl⟩ | ⟨rfl, rfl⟩⟩ := decodePower_sound hj <;> rfl
  · cases h

/-! ## The commands of a word table -/

/-- The commands whose words `SpiWords.fixedWords` lists, in its order. -/
def fixedCommands (es : List (BitVec 2)) : List Instr :=
  [.statusRead, .fifoRead, .fifoClear, .fifoAccept, .xcvrReset]
    ++ es.map .pwrReceive ++ es.map .pwrStandby ++ es.map .pwrTransmit

theorem map_encode_fixedCommands (p : Params) (es : List (BitVec 2)) :
    (fixedCommands es).map (encode p) = (p.spi.fixedWords es).map .spi := by
  simp only [fixedCommands, SpiWords.fixedWords, List.map_append, List.map_map]
  rfl

/-- The single SPI commands whose EWB operand, if they have one, is in `es`. -/
def SpiCommandOver (es : List (BitVec 2)) (i : Instr) : Prop := i ∈ fixedCommands es ∨ ∃ b, i = .txWrite b

theorem spiCommandOver_iff (es : List (BitVec 2)) (i : Instr) :
    SpiCommandOver es i ↔ isSpiCommand i = true ∧
      ∀ e, i = .pwrReceive e ∨ i = .pwrStandby e ∨ i = .pwrTransmit e → e ∈ es := by
  cases i <;> simp [SpiCommandOver, fixedCommands, isSpiCommand]

/-- An SPI command's encoding is one word. -/
theorem exists_word_of_isSpiCommand {i : Instr} (h : isSpiCommand i = true) (p : Params) :
    ∃ w, encode p i = .spi w := by
  cases i <;> cases h <;> exact ⟨_, rfl⟩

/-- R83: a fixed command's word is no TX_WRITE word. -/
theorem encode_fixedCommand_ne_txWrite {p : Params} {es : List (BitVec 2)} (h : p.spi.distinctOver es = true)
    {i : Instr} (hi : i ∈ fixedCommands es) (b : Byte) : encode p i ≠ encode p (.txWrite b) := by
  intro heq
  obtain ⟨hhi, -⟩ := Bool.and_eq_true_iff.mp h
  have hmem : encode p i ∈ (p.spi.fixedWords es).map .spi := map_encode_fixedCommands p es ▸ List.mem_map_of_mem hi
  obtain ⟨w, hw, hwi⟩ := List.mem_map.mp hmem
  obtain rfl : w = txWriteWord p.spi b := Encoded.spi.inj (hwi.trans heq)
  simpa using List.all_eq_true.mp hhi _ hw

/-- R83: no two fixed commands have one word. -/
theorem encode_injOn_fixedCommands {p : Params} {es : List (BitVec 2)} (h : p.spi.distinctOver es = true) {i j : Instr}
    (hi : i ∈ fixedCommands es) (hj : j ∈ fixedCommands es) (heq : encode p i = encode p j) : i = j := by
  obtain ⟨-, hnodup⟩ := Bool.and_eq_true_iff.mp h
  have hwords : ((fixedCommands es).map (encode p)).Nodup := by
    rw [map_encode_fixedCommands]
    exact (of_decide_eq_true hnodup).map fun _ _ => Encoded.spi.inj
  exact List.inj_on_of_nodup_map hwords hi hj heq

theorem encode_txWrite_inj {p : Params} {b c : Byte} (h : encode p (.txWrite b) = encode p (.txWrite c)) : b = c := by
  have hlo := congrArg (fun w : Word16 => w.extractLsb' 0 8) (Encoded.spi.inj h)
  simpa using hlo

/-- R83: where the words are distinct, a word tells the command. -/
theorem SpiCommandOver.eq_of_encode_eq {p : Params} {es : List (BitVec 2)} (h : p.spi.distinctOver es = true)
    {i j : Instr} (hi : SpiCommandOver es i) (hj : SpiCommandOver es j) (heq : encode p i = encode p j) : i = j := by
  obtain hi | ⟨b, rfl⟩ := hi <;> obtain hj | ⟨c, rfl⟩ := hj
  · exact encode_injOn_fixedCommands h hi hj heq
  · exact absurd heq (encode_fixedCommand_ne_txWrite h hi c)
  · exact absurd heq.symm (encode_fixedCommand_ne_txWrite h hj b)
  · rw [encode_txWrite_inj heq]

/-! ## Every command's word decodes -/

/-- Where `matchEwb` finds none, no EWB value has the word. -/
theorem ne_of_matchEwb_eq_none {f : BitVec 2 → Word16} {w : Word16} (h : matchEwb f w = none) (e : BitVec 2) :
    f e ≠ w := by
  unfold matchEwb at h
  split_ifs at h with h0 h1 h2 h3
  obtain rfl | rfl | rfl | rfl := ewb_cases e
  · exact h0
  · exact h1
  · exact h2
  · exact h3

/-- `i` is a power command with operand `e`, and `w` its word (R132 to R134). -/
def IsPowerWord (t : SpiWords) (w : Word16) (e : BitVec 2) (i : Instr) : Prop :=
  (i = .pwrReceive e ∧ pwrReceiveWord t e = w) ∨ (i = .pwrStandby e ∧ pwrStandbyWord t e = w) ∨
    (i = .pwrTransmit e ∧ pwrTransmitWord t e = w)

/-- The build's own power words come first (R82). -/
theorem decodePower_of_own {t : SpiWords} {w : Word16} {e : BitVec 2} {i : Instr} (h : IsPowerWord t w e i) :
    ∃ j, decodePower t e w = some j ∧ SpiCommandOver [e] j := by
  unfold decodePower
  split_ifs with hr hs ht
  · exact ⟨_, rfl, by simp [spiCommandOver_iff, isSpiCommand]⟩
  · exact ⟨_, rfl, by simp [spiCommandOver_iff, isSpiCommand]⟩
  · exact ⟨_, rfl, by simp [spiCommandOver_iff, isSpiCommand]⟩
  · obtain ⟨-, hw⟩ | ⟨-, hw⟩ | ⟨-, hw⟩ := h
    · exact absurd hw.symm hr
    · exact absurd hw.symm hs
    · exact absurd hw.symm ht

/-- Every power word decodes (log entry 23). -/
theorem decodePower_ne_none {t : SpiWords} {w : Word16} {e e' : BitVec 2} {i : Instr} (h : IsPowerWord t w e' i) :
    decodePower t e w ≠ none := by
  intro hnone
  unfold decodePower at hnone
  split_ifs at hnone
  unfold decodeOtherPower at hnone
  split at hnone
  · cases hnone
  next hr =>
  split at hnone
  · cases hnone
  next hs =>
  split at hnone
  · cases hnone
  next ht =>
  obtain ⟨-, hw⟩ | ⟨-, hw⟩ | ⟨-, hw⟩ := h
  · exact ne_of_matchEwb_eq_none hr e' hw
  · exact ne_of_matchEwb_eq_none hs e' hw
  · exact ne_of_matchEwb_eq_none ht e' hw

/-- R83: the words of the six kinds that CONFIG_SEQ and AuxHandler may not hold decode to commands with no EWB. -/
theorem decodeSpi_of_reserved {t : SpiWords} {w : Word16} (h : t.reserved w = true) (e : BitVec 2) :
    ∃ j, decodeSpi t e w = .ok j ∧ SpiCommandOver [] j := by
  unfold decodeSpi
  split_ifs with hsr hfr htx hfc hfa hxr
  case neg => simp [SpiWords.reserved, hsr, hfr, htx, hfc, hfa, hxr] at h
  all_goals exact ⟨_, rfl, by simp [spiCommandOver_iff, isSpiCommand]⟩

theorem decodeSpi_of_not_reserved {t : SpiWords} {w : Word16} (h : t.reserved w = false) {e : BitVec 2} {j : Instr}
    (hj : decodePower t e w = some j) : decodeSpi t e w = .ok j := by
  obtain ⟨hsr, hfr, htx, hfc, hfa, hxr⟩ := (not_reserved_iff t w).mp h
  simp only [decodeSpi, hsr, hfr, htx, hfc, hfa, hxr, if_false, hj]

/-- The other words of single commands are power words. -/
theorem isPowerWord_of_not_reserved {p : Params} {w : Word16} (h : p.spi.reserved w = false) {i : Instr}
    (hi : isSpiCommand i = true) (hw : encode p i = .spi w) : ∃ e, IsPowerWord p.spi w e i := by
  obtain ⟨hsr, hfr, htx, hfc, hfa, hxr⟩ := (not_reserved_iff p.spi w).mp h
  cases i <;> cases hi <;> cases hw
  case statusRead => exact absurd rfl hsr
  case fifoRead => exact absurd rfl hfr
  case txWrite b => exact absurd (txWriteWord_hi p.spi b) htx
  case fifoClear => exact absurd rfl hfc
  case fifoAccept => exact absurd rfl hfa
  case xcvrReset => exact absurd rfl hxr
  case pwrReceive e => exact ⟨e, .inl ⟨rfl, rfl⟩⟩
  case pwrStandby e => exact ⟨e, .inr (.inl ⟨rfl, rfl⟩)⟩
  case pwrTransmit e => exact ⟨e, .inr (.inr ⟨rfl, rfl⟩)⟩

theorem SpiCommandOver.mono {es es' : List (BitVec 2)} (hsub : es ⊆ es') {i : Instr} (h : SpiCommandOver es i) :
    SpiCommandOver es' i := by
  rw [spiCommandOver_iff] at h ⊢
  exact ⟨h.1, fun e he => hsub (h.2 e he)⟩

/-- Every command's word decodes, to some single SPI command. -/
theorem decodeSpi_of_command {p : Params} {i : Instr} {w : Word16} (hi : isSpiCommand i = true)
    (hw : encode p i = .spi w) : ∃ j, decodeSpi p.spi p.ewb w = .ok j ∧ SpiCommandOver [0, 1, 2, 3] j := by
  suffices hok : ∃ j, decodeSpi p.spi p.ewb w = .ok j by
    obtain ⟨j, hj⟩ := hok
    exact ⟨j, hj, (spiCommandOver_iff ..).mpr ⟨decodeSpi_isSpiCommand hj, fun e _ => by simpa using ewb_cases e⟩⟩
  cases hres : p.spi.reserved w with
  | true =>
    obtain ⟨j, hj, -⟩ := decodeSpi_of_reserved hres p.ewb
    exact ⟨j, hj⟩
  | false =>
    obtain ⟨e, hpower⟩ := isPowerWord_of_not_reserved hres hi hw
    obtain ⟨j, hj⟩ := Option.ne_none_iff_exists'.mp (decodePower_ne_none (e := p.ewb) hpower)
    exact ⟨j, decodeSpi_of_not_reserved hres hj⟩

/-- The word of a command of the build's own EWB decodes to a command of the build's own EWB. -/
theorem decodeSpi_of_own_command {p : Params} {i : Instr} {w : Word16} (hi : SpiCommandOver [p.ewb] i)
    (hw : encode p i = .spi w) : ∃ j, decodeSpi p.spi p.ewb w = .ok j ∧ SpiCommandOver [p.ewb] j := by
  obtain ⟨hcmd, hewb⟩ := (spiCommandOver_iff ..).mp hi
  cases hres : p.spi.reserved w with
  | true =>
    obtain ⟨j, hj, hover⟩ := decodeSpi_of_reserved hres p.ewb
    exact ⟨j, hj, hover.mono (List.nil_subset _)⟩
  | false =>
    obtain ⟨e, hpower⟩ := isPowerWord_of_not_reserved hres hcmd hw
    have hown : e = p.ewb := List.mem_singleton.mp <| hewb e <|
      hpower.imp And.left (Or.imp And.left And.left)
    obtain ⟨j, hj, hover⟩ := decodePower_of_own (hown ▸ hpower)
    exact ⟨j, decodeSpi_of_not_reserved hres hj, hover⟩

/-! ## Decoding after encoding -/

/-- Where the words of the commands over `es` are distinct, and the word of `i` decodes to one of them, it decodes to
`i`. -/
theorem decodeSpi_eq_of_distinctOver {p : Params} {es : List (BitVec 2)} (h : p.spi.distinctOver es = true) {i : Instr}
    {w : Word16} (hi : SpiCommandOver es i) (hw : encode p i = .spi w)
    (hdec : ∃ j, decodeSpi p.spi p.ewb w = .ok j ∧ SpiCommandOver es j) : decodeSpi p.spi p.ewb w = .ok i := by
  obtain ⟨j, hj, hover⟩ := hdec
  have hsame : encode p j = encode p i := (encode_of_decodeSpi hj).trans hw.symm
  rw [hj, hover.eq_of_encode_eq h hi hsame]

/-- The single SPI commands, the build's own power commands (first clause) and all (second clause). -/
theorem decode_encode_of_isSpiCommand {p : Params} {i : Instr} (hi : isSpiCommand i = true) :
    (p.spi.distinct p.ewb = true →
      (∀ e, i = .pwrReceive e ∨ i = .pwrStandby e ∨ i = .pwrTransmit e → e = p.ewb) →
      decode p (encode p i) = .ok i) ∧
    (p.spi.decodable = true → decode p (encode p i) = .ok i) := by
  obtain ⟨w, hw⟩ := exists_word_of_isSpiCommand hi p
  have hdecode : decode p (encode p i) = decodeSpi p.spi p.ewb w := by rw [hw]; rfl
  rw [hdecode]
  constructor
  · intro hdistinct hewb
    have hover : SpiCommandOver [p.ewb] i :=
      (spiCommandOver_iff ..).mpr ⟨hi, fun e he => List.mem_singleton.mpr (hewb e he)⟩
    exact decodeSpi_eq_of_distinctOver hdistinct hover hw (decodeSpi_of_own_command hover hw)
  · intro hdistinct
    have hover : SpiCommandOver [0, 1, 2, 3] i :=
      (spiCommandOver_iff ..).mpr ⟨hi, fun e _ => by simpa using ewb_cases e⟩
    exact decodeSpi_eq_of_distinctOver hdistinct hover hw (decodeSpi_of_command hi hw)

/-- A host operation's encoding is one host command. -/
theorem exists_cmd_of_isHostOperation {i : Instr} (h : i.isHostOperation = true) (p : Params) :
    ∃ c, encode p i = .host c := by
  cases i <;> cases h <;> exact ⟨_, rfl⟩

theorem decode_encode_of_isHostOperation {p : Params} {i : Instr} (hop : i.isHostOperation = true)
    (hwf : i.wellFormed p = true) : decode p (encode p i) = .ok i := by
  obtain ⟨c, hc⟩ := exists_cmd_of_isHostOperation hop p
  rw [hc, decode, decodeHost_of_encode hop hwf hc]

theorem decode_encode_of_illegal {p : Params} {word : Word32} {data : Option (List Byte)}
    (hwf : (Instr.illegal word data).wellFormed p = true) :
    decode p (encode p (.illegal word data)) = .ok (.illegal word data) := by
  rw [encode, decode, decodeHost_of_illegal hwf]

/-! ## The obligations -/

/-- Settles O4. -/
theorem spiDecodeGivesBackTheWord : Obligations.SpiDecodeGivesBackTheWord := fun _ _ _ => encode_of_decodeSpi

/-- Settles O3: a host command's fields give the operation back, and distinct words the SPI command. -/
theorem decodeOfEncodeIsIdentity : Obligations.DecodeOfEncodeIsIdentity := by
  intro p i hwf hseq haux
  cases i with
  | configSeq => exact absurd rfl hseq
  | auxWords ws => exact absurd rfl (haux ws)
  | irqEvent => exact ⟨fun _ _ => rfl, fun _ => rfl⟩
  | statusRead | fifoRead | txWrite | fifoClear | fifoAccept | pwrReceive | pwrStandby | pwrTransmit | xcvrReset =>
    exact decode_encode_of_isSpiCommand rfl
  | illegal word data =>
    have h := decode_encode_of_illegal hwf
    exact ⟨fun _ _ => h, fun _ => h⟩
  | _ =>
    have h := decode_encode_of_isHostOperation rfl hwf
    exact ⟨fun _ _ => h, fun _ => h⟩

/-- Settles O5, by running the two decoders on the words. -/
theorem sampleWordsDecode : Obligations.SampleWordsDecode := by
  unfold Obligations.SampleWordsDecode
  decide

end Sys2Proof.Machine
end

section
/-! PROOF. The results of the host operations (spec/30_encoding.md R80, spec/60_exceptions.md R146). -/

namespace Sys2Proof.Machine

/-! ## The table of R146 -/

/-- The HOSTRES words of R146; BYTE and BADINDEX by their KIND field. -/
abbrev IsTableResult (r : Word16) : Prop :=
  r = 0x0000 ∨ r = 0x0100 ∨ r = 0x0101 ∨ r = 0x0102 ∨ r = 0x0200 ∨ r = 0x0201 ∨ r = 0xFF00 ∨
    r.extractLsb' 8 8 = 0x03 ∨ r.extractLsb' 8 8 = 0xFE

/-- KIND is the high byte (R80). -/
theorem hostResWord_kind (kind value : Byte) : (hostResWord kind value).extractLsb' 8 8 = kind := by
  have := kind.isLt; have := value.isLt
  apply BitVec.eq_of_toNat_eq
  rw [extract_toNat, hostResWord, append_toNat]; omega

theorem isTableResult_done : IsTableResult resDone := by decide
theorem isTableResult_enqueued : IsTableResult resEnqueued := by decide
theorem isTableResult_occupied : IsTableResult resOccupied := by decide
theorem isTableResult_error : IsTableResult resError := by decide
theorem isTableResult_illegal : IsTableResult resIllegal := by decide
theorem isTableResult_rxStatus (st : SlotStatus) : IsTableResult (resRxStatus st) := by cases st <;> decide

theorem isTableResult_byte (b : Byte) : IsTableResult (resByte b) :=
  .inr (.inr (.inr (.inr (.inr (.inr (.inr (.inl (hostResWord_kind 0x03 b))))))))

theorem isTableResult_badIndex (i : Byte) : IsTableResult (resBadIndex i) :=
  .inr (.inr (.inr (.inr (.inr (.inr (.inr (.inr (hostResWord_kind 0xFE i))))))))

/-! ## What leaves HOSTRES alone -/

@[simp] theorem State.setIe_hostRes (s : State) (v : Bool) : (s.setIe v).hostRes = s.hostRes := by
  rw [State.setIe_eq]

@[simp] theorem State.spiSeq_hostRes (s : State) (cmd : Instr) (items : List SeqItem) :
    (s.spiSeq cmd items).hostRes = s.hostRes := by
  rw [State.spiSeq_eq]

@[simp] theorem releaseStart_hostRes (s : State) : (releaseStart s).hostRes = s.hostRes := by
  cases h : (s.rxSlot s.rxOut).status with
  | complete => rw [releaseStart_of_complete h]
  | free => rw [releaseStart_of_free h]

@[simp] theorem tickT1_hostRes (s : State) : (tickT1 s).hostRes = s.hostRes := by
  simp only [tickT1, State.spiStatusRead_eq, State.setIe_hostRes]

theorem handleRxIdle_hostRes (s : State) : (handleRxIdle s).hostRes = s.hostRes := by
  cases h : (s.rxSlot s.rxIn).status with
  | complete => rw [handleRxIdle_of_complete h]
  | free => rw [handleRxIdle_of_free h]

theorem handleRxActive_hostRes (s : State) : (handleRxActive s).hostRes = s.hostRes := by
  rw [handleRxActive_eq]
  split
  · rfl
  · by_cases hlt : s.byteCount + 1 < s.totalBytes
    · rw [State.rxAdvance_of_lt (s := rxByteState s) hlt]
    · rw [State.rxAdvance_of_not_lt (s := rxByteState s) hlt]

theorem handleTx_hostRes {s t : State} (h : handleTx s = .next t) : t.hostRes = s.hostRes := by
  unfold handleTx at h
  split at h
  · split at h
    · obtain ⟨b, -, hsend⟩ := s.txSendByte_eq
      rw [hsend] at h
      cases h
      rfl
    · cases h
  · cases h
    rfl

/-- A handler invocation returns no result: SERVICE does, after it (R100). -/
theorem handler_hostRes {s t : State} (h : handler s = .next t) : t.hostRes = s.hostRes := by
  rw [handler_eq] at h
  split at h
  · split at h
    · cases h; exact handleRxIdle_hostRes (prologueState s)
    · cases h; exact handleRxActive_hostRes (prologueState s)
    · exact handleTx_hostRes (s := prologueState s) h
  · cases h
    rfl

theorem exec_hostRes_of_isSpiCommand {s t : State} {i : Instr} (hi : isSpiCommand i = true) (h : exec i s = .next t) :
    t.hostRes = s.hostRes := by
  cases i <;> cases hi
  case statusRead => cases h; rw [State.spiStatusRead_eq]
  case fifoRead => cases h; rw [State.spiFifoRead_eq]
  all_goals cases h; rfl

/-! ## What returns a result -/

/-- No result is returned, or one of the table. -/
def ReturnsFromTable (s t : State) : Prop :=
  t.hostRes = s.hostRes ∨ ∃ r, t.hostRes = some r ∧ IsTableResult r

theorem ReturnsFromTable.finish (s u : State) (op : Instr) {r : Word16} (hr : IsTableResult r) :
    ReturnsFromTable s (u.finish op r) :=
  .inr ⟨r, rfl, hr⟩

theorem ReturnsFromTable.raiseIllegal (s u : State) (op : Instr) : ReturnsFromTable s (u.raiseIllegal op) :=
  .finish s _ op isTableResult_illegal

theorem ReturnsFromTable.raiseBadIndex (s u : State) (op : Instr) (i : Byte) :
    ReturnsFromTable s (u.raiseBadIndex op i) :=
  .finish s _ op (isTableResult_badIndex i)

theorem ReturnsFromTable.returnRxByte (s u : State) (op : Instr) (off : Nat) :
    ReturnsFromTable s (u.returnRxByte op off) :=
  .finish s _ op (isTableResult_byte _)

theorem execInit_returns {s t : State} (h : execInit s = .next t) : ReturnsFromTable s t := by
  cases h
  split
  · exact .finish s _ _ isTableResult_done
  · exact .inl (s.setIe_hostRes false)

theorem enqueueOp_returns (type length : Byte) (s : State) : ReturnsFromTable s (enqueueOp type length s) := by
  unfold enqueueOp
  split
  · exact .finish s _ _ isTableResult_occupied
  · split
    · exact .finish s _ _ isTableResult_enqueued
    · exact .finish s _ _ isTableResult_error

theorem copyEnqueueOp_returns (type length : Byte) (data : List Byte) (s : State) :
    ReturnsFromTable s (copyEnqueueOp type length data s) := by
  unfold copyEnqueueOp
  split
  · exact .finish s _ _ isTableResult_occupied
  · split
    · exact .finish s _ _ isTableResult_enqueued
    · exact .finish s _ _ isTableResult_error

theorem writeTxpOp_returns (index value : Byte) (s : State) : ReturnsFromTable s (writeTxpOp index value s) := by
  unfold writeTxpOp
  split
  · exact .finish s _ _ isTableResult_done
  · exact .raiseBadIndex s ..

theorem execRelease_returns {s t : State} (h : execRelease s = .next t) : ReturnsFromTable s t := by
  cases h
  split
  · exact .finish s _ _ isTableResult_done
  · exact .inl (releaseStart_hostRes s)

theorem execSwReset_returns {s t : State} (h : execSwReset s = .next t) : ReturnsFromTable s t := by
  cases h
  split
  · exact .finish s _ _ isTableResult_done
  · exact .inl (s.setIe_hostRes false)

theorem tickT0_returns (s : State) : ReturnsFromTable s (tickT0 s) := by
  unfold tickT0
  split
  · exact .inl rfl
  · exact .finish s _ _ isTableResult_done
  · exact .finish s _ _ isTableResult_done

theorem tickT2_returns (S : Word16) (s : State) : ReturnsFromTable s (tickT2 S s) := by
  cases hcarrier : rssi s.params S with
  | true =>
    rw [tickT2_of_carrier hcarrier]
    exact .finish s _ _ isTableResult_done
  | false =>
    by_cases hgate : countDown s.freeCount = 0 ∧ s.txStatus = .occupied
    · rw [tickT2_of_gate hcarrier hgate.1 hgate.2]
      exact .inl rfl
    · rw [tickT2_of_not_gate hcarrier hgate]
      exact .finish s _ _ isTableResult_done

theorem tickT3_returns (s : State) : ReturnsFromTable s (tickT3 s) :=
  .finish s _ _ isTableResult_done

theorem execTick_returns {s t : State} (h : execTick s = .next t) : ReturnsFromTable s t := by
  cases h
  cases s.main with
  | tickSample => exact .inl (tickT1_hostRes s)
  | tickDecide S => exact tickT2_returns S s
  | tickStart => exact tickT3_returns s
  | _ => exact tickT0_returns s

theorem execService_returns {s t : State} (h : execService s = .next t) : ReturnsFromTable s t := by
  unfold execService at h
  split at h
  · cases hrun : handler s with
    | next u => rw [hrun] at h; cases h; exact .finish s _ _ isTableResult_done
    | fault => rw [hrun] at h; cases h
    | refused => rw [hrun] at h; cases h
  · cases h
    exact .raiseIllegal s ..

theorem execIrqEvent_hostRes {s t : State} (h : execIrqEvent s = .next t) : t.hostRes = s.hostRes := by
  unfold execIrqEvent at h
  split at h
  · exact handler_hostRes h
  · cases h
    rfl

/-- R146: one micro-step, invocation or transfer. -/
theorem exec_returns {s t : State} {i : Instr} (h : exec i s = .next t) : ReturnsFromTable s t := by
  cases i with
  | init => exact execInit_returns h
  | enqueue type length => cases h; exact enqueueOp_returns ..
  | copyEnqueue type length data =>
    cases h
    split
    · exact copyEnqueueOp_returns ..
    · exact .raiseIllegal s ..
  | writeTxp index value => cases h; exact writeTxpOp_returns ..
  | poll => cases h; exact .finish s _ _ (isTableResult_rxStatus _)
  | getLen | getType => cases h; exact .returnRxByte s ..
  | readRxp index =>
    cases h
    split
    · exact .returnRxByte s ..
    · exact .raiseBadIndex s ..
  | release => exact execRelease_returns h
  | tick => exact execTick_returns h
  | swReset => exact execSwReset_returns h
  | service => exact execService_returns h
  | illegal word data => cases h; exact .raiseIllegal s ..
  | irqEvent => exact .inl (execIrqEvent_hostRes h)
  | configSeq | auxWords => cases h; exact .inl (State.spiSeq_hostRes ..)
  | _ => exact .inl (exec_hostRes_of_isSpiCommand rfl h)

/-- Settles O56: a step waits, which returns nothing, or runs one instruction. -/
theorem resultsAreFromTheTable : Obligations.ResultsAreFromTheTable := by
  intro s t h
  obtain ⟨rest, s', rfl, hcases⟩ := step_cases h
  suffices hret : ReturnsFromTable { s with schedule := rest } t from hret
  obtain ⟨-, ht⟩ | ⟨i, -, ht⟩ | ⟨c, -, -, ht⟩ | ⟨-, ht⟩ | ⟨w, i, -, -, ht⟩ | ⟨w, e, -, -, ht⟩ := hcases
  · cases ht
    exact .inl rfl
  · exact exec_returns ht.symm
  · exact exec_returns ht.symm
  · exact exec_returns ht.symm
  · exact exec_returns ht.symm
  · cases ht

end Sys2Proof.Machine
end

section
/-! PROOF. A whole transmission (spec/41_irq_service.md R113, R114; spec/30_encoding.md R87): by induction on the bytes
of the frame that are still to be sent. -/

namespace Sys2Proof.Machine

/-! ## The bytes of an observation -/

/-- An observation is newest first, its bytes oldest first. -/
theorem sentBytes_append (new old : List Obs) : sentBytes (new ++ old) = sentBytes old ++ sentBytes new := by
  induction new using sentBytes.induct with
  | case1 => simp [sentBytes]
  | case2 b w a rest ih => simp [sentBytes, ih]
  | case3 o rest hother ih =>
    rw [List.cons_append, sentBytes, sentBytes, ih]
    all_goals exact hother

/-- What goes out as AUX_WORDS is no TX_WRITE command (R137). -/
theorem sentBytes_auxWords (ws : List Word16) (items : List SeqItem) : sentBytes (seqObs (.auxWords ws) items) = [] := by
  induction items with
  | nil => rfl
  | cons x items ih =>
    have hcons : seqObs (.auxWords ws) (x :: items) =
        seqObs (.auxWords ws) items ++ seqObs (.auxWords ws) [x] := by simp [seqObs]
    rw [hcons, sentBytes_append, ih]
    cases x <;> rfl

/-- The prologue sends no frame byte (R103, R104). -/
theorem sentBytes_prologueState (s : State) : sentBytes (prologueState s).obs = sentBytes s.obs := by
  simp only [prologueState, sentBytes_append, sentBytes_auxWords, List.append_nil, sentBytes]

/-! ## One invocation in TX -/

/-- A step of agent IRQ, when it may step, is one handler invocation (R101). -/
theorem step_of_irq_permitted {s : State} {rest : List Event} (hsch : s.schedule = .irq :: rest)
    (hie : s.ie = true) (hpoll : s.params.pollingBuild = false) :
    step s = handler { s with schedule := rest } := by
  have hstep : step s = exec .irqEvent { s with schedule := rest } := step_of_present (fetch_of_irq hsch) rfl
  have hpermitted : State.irqPermitted { s with schedule := rest } = true := by simp [State.irqPermitted, hie, hpoll]
  exact hstep.trans (if_pos hpermitted)

theorem handler_of_tx {s : State} (hlink : s.linkState = .tx) (hflag : ffit s.params (statusAnswerOf s) = true) :
    handler s = handleTx (prologueState s) := by
  rw [handler_eq, if_pos hflag, hlink]

/-- R113 on a written cell. -/
theorem handleTx_of_byte {s : State} {b : Byte} (hlt : s.byteCount < s.totalBytes)
    (hfits : s.byteCount.toNat < txFrameSize s.params) (hcell : s.txCell s.byteCount.toNat = some b) :
    handleTx s = .next { s with
      byteCount := s.byteCount + 1, obs := .spi (.txWrite b) (txWriteWord s.params.spi b) none :: s.obs } := by
  rw [handleTx, if_pos hlt, if_pos hfits, State.txSendByte, State.txRead_of_some hcell]
  rfl

/-- R114. -/
theorem handleTx_of_end {s : State} (h : s.byteCount = s.totalBytes) : handleTx s = .next s.txDone := by
  rw [handleTx, if_neg (by simp [h])]

/-- The end of a transmission sends DUMMY (R114, R115). -/
theorem sentBytes_txDone (s : State) : sentBytes s.txDone.obs = sentBytes s.obs ++ [s.params.dummy] := rfl

/-! ## The whole frame -/

/-- A transmission in a build that takes interrupts, with the bytes `rest` of its frame still to be sent and an
invocation for each of them and for the end. -/
structure Sending (s : State) (rest : List Byte) : Prop where
  ie : s.ie = true
  polling : s.params.pollingBuild = false
  link : s.linkState = .tx
  total : s.byteCount.toNat + rest.length = s.totalBytes.toNat
  fits : s.totalBytes.toNat ≤ txFrameSize s.params
  cells : ∀ j, j < rest.length → s.txCell (s.byteCount.toNat + j) = rest[j]?
  schedule : s.schedule = List.replicate (rest.length + 1) .irq
  answers : rest.length + 1 ≤ s.statusAnswers.length
  flags : ∀ S ∈ s.statusAnswers.take (rest.length + 1), ffit s.params S = true

/-- The next invocation is one in TX with FFIT = 1. -/
theorem Sending.step_eq {s : State} {rest : List Byte} (h : Sending s rest) :
    step s = handleTx (prologueState { s with schedule := List.replicate rest.length .irq }) := by
  have hsch : s.schedule = .irq :: List.replicate rest.length .irq := h.schedule
  rw [step_of_irq_permitted hsch h.ie h.polling]
  refine handler_of_tx h.link (h.flags _ ?_)
  have hanswers := h.answers
  show statusAnswerOf s ∈ _
  cases hS : s.statusAnswers with
  | nil => simp [hS] at hanswers
  | cons S answers => simp [statusAnswerOf, hS]

/-- R113: one invocation sends the next byte. -/
theorem Sending.step_byte {s : State} {b : Byte} {rest : List Byte} (h : Sending s (b :: rest)) :
    ∃ u, step s = .next u ∧ Sending u rest ∧ u.params = s.params ∧ u.totalBytes = s.totalBytes ∧
      sentBytes u.obs = sentBytes s.obs ++ [b] := by
  have htotal := h.total
  rw [List.length_cons] at htotal
  have hlt : s.byteCount < s.totalBytes := by rw [BitVec.lt_def]; omega
  have hfits : s.byteCount.toNat < txFrameSize s.params := lt_of_lt_of_le hlt h.fits
  have hcell : s.txCell s.byteCount.toNat = some b := h.cells 0 (Nat.succ_pos _)
  have hnext := toNat_add_one_of_lt hlt
  refine ⟨_, h.step_eq.trans (handleTx_of_byte hlt hfits hcell), ?_, rfl, rfl, ?_⟩
  · refine ⟨h.ie, h.polling, h.link, ?_, h.fits, fun j hj => ?_, rfl, ?_, fun S hS => h.flags S ?_⟩
    · show (s.byteCount + 1).toNat + rest.length = s.totalBytes.toNat
      omega
    · show s.txCell ((s.byteCount + 1).toNat + j) = rest[j]?
      have hj' := h.cells (j + 1) (Nat.succ_lt_succ hj)
      rw [hnext, Nat.add_assoc, Nat.add_comm 1 j, hj', List.getElem?_cons_succ]
    · have hanswers := h.answers
      show rest.length + 1 ≤ s.statusAnswers.tail.length
      rw [List.length_tail]
      simp only [List.length_cons] at hanswers
      omega
    · have hmem : S ∈ (s.statusAnswers.take (rest.length + 2)).tail := by
        rw [List.tail_take_eq_take_tail]
        exact hS
      exact List.mem_of_mem_tail hmem
  · exact congrArg (· ++ [b]) (sentBytes_prologueState s)

/-- R114: with no byte left, one invocation ends the transmission. -/
theorem Sending.step_end {s : State} (h : Sending s []) :
    ∃ u, step s = .next u ∧ sentBytes u.obs = sentBytes s.obs ++ [s.params.dummy] ∧
      u.linkState = .rxIdle ∧ u.txStatus = .free ∧ u.byteCount = s.totalBytes := by
  have hcount : s.byteCount = s.totalBytes := BitVec.eq_of_toNat_eq h.total
  refine ⟨_, h.step_eq.trans (handleTx_of_end hcount), ?_, rfl, rfl, hcount⟩
  rw [sentBytes_txDone]
  exact congrArg (· ++ [s.params.dummy]) (sentBytes_prologueState s)

theorem Sending.run {s : State} {rest : List Byte} (h : Sending s rest) :
    ∃ t, Host.Core.run core (rest.length + 1) s = .next t ∧
      sentBytes t.obs = sentBytes s.obs ++ rest ++ [s.params.dummy] ∧
      t.linkState = .rxIdle ∧ t.txStatus = .free ∧ t.byteCount = s.totalBytes := by
  induction rest generalizing s with
  | nil =>
    obtain ⟨u, hstep, hsent, hdone⟩ := h.step_end
    exact ⟨u, run_succ_of_step (M := core) hstep 0, by rw [hsent, List.append_nil], hdone⟩
  | cons b rest ih =>
    obtain ⟨u, hstep, hu, hparams, htotal, hsent⟩ := h.step_byte
    obtain ⟨t, hrun, hbytes, hdone⟩ := ih hu
    refine ⟨t, (run_succ_of_step (M := core) hstep _).trans hrun, ?_, htotal ▸ hdone⟩
    rw [hbytes, hsent, hparams]
    simp

/-- Settles O59: at the start the whole frame is still to be sent. -/
theorem transmissionSendsWholeFrame : Obligations.TransmissionSendsWholeFrame := by
  intro s frame hie hpoll hlink hzero htotal hfits hcells hsch hanswers hflags
  have hcount : s.byteCount.toNat = 0 := congrArg BitVec.toNat hzero
  have hsending : Sending s frame :=
    { ie := hie
      polling := hpoll
      link := hlink
      total := by omega
      fits := htotal ▸ hfits
      cells := fun j hj => by rw [hcount, Nat.zero_add, hcells j hj]
      schedule := hsch
      answers := hanswers
      flags := hflags }
  exact hsending.run

end Sys2Proof.Machine
end

section
/-! PROOF. The driver operations (spec/40_driver_api.md R90 to R99): for each, the micro-step that MAIN's position
selects, and that micro-step as one record update. -/

namespace Sys2Proof.Machine

/-! ## The micro-step that runs (R64) -/

theorem exec_init_of_inside {s : State} (h : s.main = .initBody) : exec .init s = .next (initFinish s) := by
  simp only [exec, execInit, h]

theorem exec_init_of_outside {s : State} (h : s.main ≠ .initBody) : exec .init s = .next (initStart s) := by
  simp only [exec, execInit]

theorem exec_swReset_of_inside {s : State} (h : s.main = .swResetBody) : exec .swReset s = .next (swResetFinish s) := by
  simp only [exec, execSwReset, h]

theorem exec_swReset_of_outside {s : State} (h : s.main ≠ .swResetBody) : exec .swReset s = .next (swResetStart s) := by
  simp only [exec, execSwReset]

theorem exec_release_of_inside {s : State} (h : s.main = .releaseToggle) :
    exec .release s = .next (releaseFinish s) := by
  simp only [exec, execRelease, h]

theorem exec_release_of_outside {s : State} (h : s.main ≠ .releaseToggle) :
    exec .release s = .next (releaseStart s) := by
  simp only [exec, execRelease]

/-! ## INIT and SW_RESET (R90, R99) -/

/-- A clearing of IE is observed where IE was 1 (R9). -/
theorem State.setIe_false (s : State) :
    s.setIe false = { s with ie := false, obs := (if s.ie then [.ie false] else []) ++ s.obs } := by
  rw [State.setIe_eq]
  cases s.ie <;> rfl

/-- A setting of IE is observed where IE was 0 (R9). -/
theorem State.setIe_true (s : State) :
    s.setIe true = { s with ie := true, obs := (if s.ie then [] else [.ie true]) ++ s.obs } :=
  s.setIe_eq true

/-- R82: the three power words of a build carry its EWB. -/
theorem powerWords_ewb (p : Params) :
    let ewb := (if p.auxWakeup then p.spi.ewbWakeup else 0) ||| (if p.auxLowbat then p.spi.ewbLowbat else 0)
    pwrReceiveWord p.spi p.ewb = p.spi.pwrReceive ||| ewb ∧ pwrStandbyWord p.spi p.ewb = p.spi.pwrStandby ||| ewb ∧
    pwrTransmitWord p.spi p.ewb = p.spi.pwrTransmit ||| ewb := by
  intro ewb
  have hewb : ewbMask p.spi p.ewb = ewb := ewbMask_ewb p
  exact hewb ▸ ⟨rfl, rfl, rfl⟩

/-- INIT m2: CONFIG_SEQ, the registers, the words that start reception, and IE, in R90's order. -/
theorem initFinish_eq (s : State) :
    initFinish s = { s.initRegisters with
      ie := true, main := .idle, hostRes := some resDone
      obs := .result .init resDone :: ((if s.ie then [] else [.ie true]) ++ fifoResetObs s.params
        ++ .spi (.pwrReceive s.params.ewb) (pwrReceiveWord s.params.spi s.params.ewb) none
        :: seqObs .configSeq s.params.configSeq ++ s.obs) } := by
  simp only [initFinish, State.spiSeq_eq, State.setIe_true, List.append_assoc]
  rfl

theorem swResetFinish_eq (s : State) :
    swResetFinish s = { s with
      ie := true, main := .idle, hostRes := some resDone
      obs := .result .swReset resDone :: ((if s.ie then [] else [.ie true]) ++ .delay s.params.resetDelayMs
        :: .spi .xcvrReset s.params.spi.xcvrReset none :: .delay s.params.resetDelayMs :: s.obs) } := by
  simp only [swResetFinish, State.setIe_true]
  rfl

/-- Settles O9. -/
theorem initAndSwResetMaskInterruptFirst : Obligations.InitAndSwResetMaskInterruptFirst := by
  refine fun s => ⟨fun h => ?_, fun h => ?_⟩
  · rw [exec_init_of_outside h, initStart, State.setIe_false]
  · rw [exec_swReset_of_outside h, swResetStart, State.setIe_false]

/-- Settles O10: the words of the build by `powerWords_ewb`, the body by `initFinish_eq`. -/
theorem initBodyResetsLinkState : Obligations.InitBodyResetsLinkState := by
  refine ⟨powerWords_ewb, AuxState.value_init, fun s h => ?_⟩
  rw [exec_init_of_inside h, initFinish_eq]
  rfl

/-- Settles O12. -/
theorem swResetWritesOnlyInterruptEnable : Obligations.SwResetWritesOnlyInterruptEnable := by
  intro s h
  rw [exec_swReset_of_inside h, swResetFinish_eq]
  rfl

/-! ## ENQUEUE and COPY_ENQUEUE (R91, R92) -/

/-- COPY_ENQUEUE's copy, before the header is written (R92). -/
def State.copyPayload (s : State) (data : List Byte) : State :=
  { s with txFrame := s.txFrame.storeList (txPayloadOffset 0) data }

/-- R92: a copy that fits writes the first payload cells and no other; it does not reach tx.PAD. -/
theorem State.txCell_copyPayload (s : State) {data : List Byte} (h : data.length ≤ s.params.txBufferSize) (a : Nat) :
    (s.copyPayload data).txCell a = if 5 ≤ a ∧ a < 5 + data.length then data[a - 5]? else s.txCell a := by
  simp only [State.txCell, State.copyPayload, txPayloadOffset, Memory.byteAt_storeList, Nat.add_zero]
  by_cases hin : 5 ≤ a ∧ a < 5 + data.length
  · obtain ⟨hlo, hhi⟩ := hin
    rw [if_neg (by omega), if_neg (by omega), if_neg (by omega), if_pos (And.intro hlo hhi),
      if_pos (And.intro hlo hhi)]
  · rw [if_neg hin, if_neg hin]
    rfl

theorem exec_enqueue_of_fits {type length : Byte} {s : State} (hfree : s.txStatus = .free)
    (hlen : length.toNat ≤ s.params.txBufferSize) :
    exec (.enqueue type length) s =
      .next ((s.enqueueHeader type length).finish (.enqueue type length) resEnqueued) := by
  have hok : txLengthOk s.params length = true := decide_eq_true hlen
  simp only [exec, execEnqueue, enqueueOp, hfree, hok, if_true]

theorem exec_copyEnqueue_of_fits {type length : Byte} {data : List Byte} {s : State}
    (hdata : data.length = length.toNat) (hfree : s.txStatus = .free)
    (hlen : length.toNat ≤ s.params.txBufferSize) :
    exec (.copyEnqueue type length data) s =
      .next (((s.copyPayload data).enqueueHeader type length).finish (.copyEnqueue type length data) resEnqueued) := by
  have hok : txLengthOk s.params length = true := decide_eq_true hlen
  simp only [exec, execCopyEnqueue, hdata, copyEnqueueOp, hfree, hok, if_true, State.copyPayload]

@[simp] theorem State.txCell_finish (s : State) (op : Instr) (r : Word16) (a : Nat) :
    (s.finish op r).txCell a = s.txCell a := rfl

/-- R86, R91: the header as it stands in TXFRAME. -/
theorem State.header_enqueueHeader (s : State) (type length : Byte) :
    (s.enqueueHeader type length).txCell 2 = some length ∧ (s.enqueueHeader type length).txCell 3 = some type ∧
      (s.enqueueHeader type length).txCell 4 = some (length ^^^ type ^^^ 0xFF) :=
  ⟨s.txCell_enqueueHeader type length 2, s.txCell_enqueueHeader type length 3, s.txCell_enqueueHeader type length 4⟩

theorem State.txCell_enqueueHeader_of_ne (s : State) (type length : Byte) {a : Nat} (h2 : a ≠ 2) (h3 : a ≠ 3)
    (h4 : a ≠ 4) : (s.enqueueHeader type length).txCell a = s.txCell a :=
  (s.txCell_enqueueHeader type length a).trans ((if_neg h4).trans ((if_neg h3).trans (if_neg h2)))

/-- R92: beside the header, the copied cells hold the data and every other cell what it held. -/
theorem State.txCell_enqueueHeader_copyPayload (s : State) (type length : Byte) {data : List Byte}
    (h : data.length ≤ s.params.txBufferSize) {a : Nat} (ha : a < 2 ∨ 5 ≤ a) :
    ((s.copyPayload data).enqueueHeader type length).txCell a =
      if 5 ≤ a ∧ a < 5 + data.length then data[a - 5]? else s.txCell a := by
  rw [State.txCell_enqueueHeader_of_ne _ _ _ (by omega) (by omega) (by omega), State.txCell_copyPayload s h]

/-- Beside TXFRAME, queueing a frame writes TX_STATUS only, and returns. -/
theorem State.queueFrame_eq (s : State) (data : List Byte) (type length : Byte) (op : Instr) (r : Word16) :
    let t := ((s.copyPayload data).enqueueHeader type length).finish op r
    t = { s with txFrame := t.txFrame, txStatus := .occupied, main := .idle, hostRes := some r
                 obs := .result op r :: s.obs } := by
  simp only [State.enqueueHeader_eq]
  rfl

/-- Settles O13. -/
theorem enqueueWritesHeader : Obligations.EnqueueWritesHeader := by
  intro type length s hfree hlen
  obtain ⟨hl, ht, hc⟩ := s.header_enqueueHeader type length
  exact ⟨_, exec_enqueue_of_fits hfree hlen, hl, ht, hc,
    fun a h2 h3 h4 => s.txCell_enqueueHeader_of_ne type length h2 h3 h4, rfl⟩

/-- Settles O15: the header's cells are none of the payload's, so the copy stays as it was made. -/
theorem copyEnqueueCopiesThenQueues : Obligations.CopyEnqueueCopiesThenQueues := by
  intro type length data s hdata hfree hlen
  have hcell {a : Nat} := s.txCell_enqueueHeader_copyPayload type length (hdata.trans_le hlen) (a := a)
  obtain ⟨hl, ht, hc⟩ := (s.copyPayload data).header_enqueueHeader type length
  refine ⟨_, exec_copyEnqueue_of_fits hdata hfree hlen, hl, ht, hc, fun j hj => ?copied, fun a ha => ?kept,
    s.queueFrame_eq _ type length _ _⟩
  case copied => rw [State.txCell_finish, hcell (by omega), if_pos (by omega), Nat.add_sub_cancel_left]
  case kept => rw [State.txCell_finish, hcell (by omega), if_neg (by omega)]

/-! ## WRITE_TXP (R93) -/

/-- MISUSE after a WRITE_TXP inside the payload area (R93, R149). -/
def writeTxpMisuse (s : State) : Byte := if s.txStatus = .occupied then s.misuse ||| maskTxWrite else s.misuse

theorem writeTxpOp_of_lt {index : Byte} (value : Byte) {s : State} (h : index.toNat < s.params.txBufferSize) :
    writeTxpOp index value s = { s with
      txFrame := s.txFrame.store (txPayloadOffset index.toNat) value, misuse := writeTxpMisuse s
      main := .idle, hostRes := some resDone
      obs := .result (.writeTxp index value) resDone
        :: ((if writeTxpMisuse s = s.misuse then [] else [.misuse (writeTxpMisuse s)]) ++ s.obs) } := by
  have hok : txIndexOk s.params index = true := decide_eq_true h
  unfold writeTxpOp writeTxpMisuse
  rw [if_pos hok]
  cases hst : s.txStatus with
  | free => simp [State.finish, State.txStore, hst]
  | occupied => simp [State.finish, State.txStore, State.setMisuse_eq, hst]

/-- Settles O16. -/
theorem writeTxpWritesOneCell : Obligations.WriteTxpWritesOneCell := by
  intro index value s h
  have hcell := s.txCell_writeTxp (value := value) (writeTxpMisuse s) h
  exact ⟨_, congrArg Host.Outcome.next (writeTxpOp_of_lt value h), (hcell _).trans (if_pos rfl),
    fun a ha => (hcell a).trans (if_neg ha), rfl, rfl⟩

/-! ## POLL and the accessors (R94 to R97) -/

theorem exec_poll (s : State) : exec .poll s = .next (s.finish .poll (resRxStatus (s.rxSlot s.rxOut).status)) := rfl

/-- R95 to R97: a written cell gives its byte, whatever the slot's STATUS, and no draw is used. -/
theorem State.returnRxByte_of_some {s : State} {off : Nat} {b : Byte} (op : Instr)
    (h : s.rxCell s.rxOut off = some b) : s.returnRxByte op off = s.finish op (resByte b) := by
  rw [State.returnRxByte, State.rxRead_of_some h]

/-- Settles O18. -/
theorem pollReturnsOutSlotStatus : Obligations.PollReturnsOutSlotStatus := by
  refine fun s => ⟨fun hfree => ?_, fun hcomplete => ?_⟩
  · rw [exec_poll, hfree]
    rfl
  · rw [exec_poll, hcomplete]
    rfl

/-- Settles O19. -/
theorem accessorsReturnOutSlotBytes : Obligations.AccessorsReturnOutSlotBytes := by
  intro s b i off hi hcell
  rw [exec_accessor hi, State.returnRxByte_of_some i hcell]
  rfl

/-! ## RELEASE (R98) -/

theorem State.rxSlot_setRxStatus_self (s : State) (i : BitVec 1) (v : SlotStatus) :
    (s.setRxStatus i v).rxSlot i = { s.rxSlot i with status := v } :=
  s.rxSlot_setRxSlot_self i _

theorem State.rxSlot_setRxStatus_of_ne (s : State) {i j : BitVec 1} (v : SlotStatus) (h : j ≠ i) :
    (s.setRxStatus i v).rxSlot j = s.rxSlot j :=
  s.rxSlot_setRxSlot_of_ne _ h

/-- MISUSE after RELEASE m1 (R98, R149). -/
def releaseMisuse (s : State) : Byte :=
  if (s.rxSlot s.rxOut).status = .complete then s.misuse else s.misuse ||| maskRelease

theorem releaseStart_eq (s : State) :
    releaseStart s = { s with
      rx0 := (s.setRxStatus s.rxOut .free).rx0, rx1 := (s.setRxStatus s.rxOut .free).rx1
      misuse := releaseMisuse s, main := .releaseToggle
      obs := (if releaseMisuse s = s.misuse then [] else [.misuse (releaseMisuse s)]) ++ s.obs } := by
  unfold releaseMisuse
  cases hst : (s.rxSlot s.rxOut).status with
  | complete => simp [releaseStart_of_complete hst]
  | free => simp [releaseStart_of_free hst]

/-- Settles O21. -/
theorem releaseFreesOutSlot : Obligations.ReleaseFreesOutSlot := by
  intro s h
  refine ⟨_, (exec_release_of_outside h).trans (congrArg _ (releaseStart_eq s)), ?_, ?_, rfl, rfl⟩
  · exact s.rxSlot_setRxStatus_self s.rxOut .free
  · exact s.rxSlot_setRxStatus_of_ne .free (slot_xor_ne s.rxOut)

/-- Settles O22. -/
theorem releaseAdvancesOutPointer : Obligations.ReleaseAdvancesOutPointer := by
  intro s h
  rw [exec_release_of_inside h]
  rfl

end Sys2Proof.Machine
end

section
/-! PROOF. One handler invocation with FFIT = 1 (spec/41_irq_service.md R107 to R115), branch by branch: the state it
gives, and what that state's receive slots hold. -/

namespace Sys2Proof.Machine

/-! ## The branch that runs (R106) -/

theorem handler_of_rxIdle {s : State} (hlink : s.linkState = .rxIdle)
    (hflag : ffit s.params (statusAnswerOf s) = true) : handler s = .next (handleRxIdle (prologueState s)) := by
  rw [handler_eq, if_pos hflag, hlink]

theorem handler_of_rxActive {s : State} (hlink : s.linkState = .rxActive)
    (hflag : ffit s.params (statusAnswerOf s) = true) : handler s = .next (handleRxActive (prologueState s)) := by
  rw [handler_eq, if_pos hflag, hlink]

/-! ## RX_IDLE (R107) -/

/-- RX_IDLE after the length byte is accepted. -/
abbrev rxAcceptState (s : State) : State :=
  { fifoReadState s with
    rx0 := (s.rxWrite s.rxIn rxLenOffset (fifoByteOf s)).rx0
    rx1 := (s.rxWrite s.rxIn rxLenOffset (fifoByteOf s)).rx1
    totalBytes := (fifoByteOf s).zeroExtend 16 + 3, rxChecksum := fifoByteOf s, byteCount := 1
    linkState := .rxActive }

theorem handler_of_accept {s : State} (hflag : ffit s.params (statusAnswerOf s) = true) (hlink : s.linkState = .rxIdle)
    (hfree : (s.rxSlot s.rxIn).status = .free) : handler s = .next (rxAcceptState (prologueState s)) :=
  (handler_of_rxIdle hlink hflag).trans (congrArg _ (handleRxIdle_of_free (s := prologueState s) hfree))

/-- Only LEN of the slot being filled is written. -/
theorem rxCell_rxAcceptState (s : State) (i : BitVec 1) (a : Nat) :
    (rxAcceptState s).rxCell i a = if i = s.rxIn ∧ a = 0 then some (fifoByteOf s) else s.rxCell i a :=
  s.rxCell_rxWrite s.rxIn i rxLenOffset a (fifoByteOf s)

/-- Settles O26: `rxAcceptState` is the next state. -/
theorem idleAcceptsLengthByte : Obligations.IdleAcceptsLengthByte := by
  intro s hflag hlink hfree
  have hcell := rxCell_rxAcceptState (prologueState s)
  refine ⟨_, handlerGives_of_handler (handler_of_accept hflag hlink hfree), ?_, fun i a hne => ?_, fun i => ?_, rfl⟩
  · exact (hcell s.rxIn 0).trans (if_pos ⟨rfl, rfl⟩)
  · exact (hcell i a).trans (if_neg (by tauto))
  · exact (prologueState s).rxWrite_status s.rxIn i rxLenOffset (fifoAnswerOf s)

/-- Settles O27: the epilogue writes RX_IDLE over RX_IDLE. -/
theorem idleDropsWhenNoFreeSlot : Obligations.IdleDropsWhenNoFreeSlot := by
  intro s hflag hlink hcomplete
  have hdrop := handleRxIdle_of_complete (s := prologueState s) hcomplete
  rw [← hlink] at hdrop
  exact handlerGives_of_handler ((handler_of_rxIdle hlink hflag).trans (congrArg _ hdrop))

/-! ## RX_ACTIVE (R108 to R112) -/

/-- R109: the bounded store, cell by cell. -/
theorem rxCell_rxByteState (s : State) (i : BitVec 1) (a : Nat) :
    (rxByteState s).rxCell i a =
      if s.byteCount.toNat < rxSlotSize s.params ∧ i = s.rxIn ∧ a = s.byteCount.toNat then some (fifoByteOf s)
      else s.rxCell i a :=
  s.rxCell_rxStoreBounded s.byteCount.toNat (fifoByteOf s) i a

theorem rxByteState_status (s : State) (i : BitVec 1) : ((rxByteState s).rxSlot i).status = (s.rxSlot i).status :=
  s.rxStoreBounded_status s.byteCount.toNat (fifoByteOf s) i

theorem storedBounded_of_rxCell {s t : State}
    (h : ∀ i a, t.rxCell i a = (rxByteState (prologueState s)).rxCell i a) : StoredBounded s t := by
  refine ⟨fun hroom => ?_, fun i a hother => ?_⟩
  · rw [h, rxCell_rxByteState]
    exact if_pos ⟨hroom, rfl, rfl⟩
  · rw [h, rxCell_rxByteState]
    refine if_neg fun ⟨hroom, hi, ha⟩ => ?_
    obtain hne | hne | hfull := hother
    · exact hne hi
    · exact hne ha
    · exact absurd hroom (Nat.not_lt.mpr hfull)

/-- R110. -/
theorem handler_of_abort {s : State} (hflag : ffit s.params (statusAnswerOf s) = true) (hlink : s.linkState = .rxActive)
    (htwo : s.byteCount = 2) (hsum : s.rxChecksum ^^^ fifoAnswerOf s ≠ 0xFF) :
    handler s = .next (rxByteState (prologueState s)).epilogue := by
  rw [handler_of_rxActive hlink hflag, handleRxActive_eq]
  exact congrArg _ (if_pos ⟨htwo, decide_eq_false hsum⟩)

/-- R111, R112: a byte that passes the header check is counted. -/
theorem handler_of_advance {s : State} (hflag : ffit s.params (statusAnswerOf s) = true)
    (hlink : s.linkState = .rxActive) (hsum : s.byteCount = 2 → s.rxChecksum ^^^ fifoAnswerOf s = 0xFF) :
    handler s = .next ((rxByteState (prologueState s)).rxAdvance s.byteCount) := by
  rw [handler_of_rxActive hlink hflag, handleRxActive_eq]
  exact congrArg _ (if_neg fun ⟨htwo, hbad⟩ => of_decide_eq_false hbad (hsum htwo))

/-- RX_ACTIVE after a byte that is not the last (R111). -/
abbrev rxContinueState (s : State) : State := { rxByteState s with byteCount := s.byteCount + 1 }

/-- RX_ACTIVE after the last byte (R112). -/
abbrev rxCompleteState (s : State) : State :=
  { rxByteState s with
    byteCount := s.byteCount + 1
    rx0 := ((rxByteState s).setRxStatus s.rxIn .complete).rx0
    rx1 := ((rxByteState s).setRxStatus s.rxIn .complete).rx1
    rxIn := s.rxIn ^^^ 1, linkState := .rxIdle, obs := fifoResetObs s.params ++ (fifoReadState s).obs }

/-- BYTE_COUNT and TOTAL_BYTES are compared after the advance, without a wrap. -/
theorem add_one_lt_iff_of_lt {k n : Word16} (h : k.toNat < n.toNat) : k + 1 < n ↔ k.toNat + 1 < n.toNat := by
  rw [BitVec.lt_def, toNat_add_one_of_lt h]

theorem handler_of_continue {s : State} (hflag : ffit s.params (statusAnswerOf s) = true)
    (hlink : s.linkState = .rxActive) (hsum : s.byteCount = 2 → s.rxChecksum ^^^ fifoAnswerOf s = 0xFF)
    (hlt : s.byteCount.toNat + 1 < s.totalBytes.toNat) : handler s = .next (rxContinueState (prologueState s)) := by
  rw [handler_of_advance hflag hlink hsum]
  exact congrArg _ (State.rxAdvance_of_lt ((add_one_lt_iff_of_lt (Nat.lt_of_succ_lt hlt)).mpr hlt))

theorem handler_of_complete {s : State} (hflag : ffit s.params (statusAnswerOf s) = true)
    (hlink : s.linkState = .rxActive) (hsum : s.byteCount = 2 → s.rxChecksum ^^^ fifoAnswerOf s = 0xFF)
    (hlast : s.byteCount.toNat + 1 = s.totalBytes.toNat) : handler s = .next (rxCompleteState (prologueState s)) := by
  have hend : ¬ s.byteCount + 1 < s.totalBytes := by
    rw [add_one_lt_iff_of_lt (by omega)]
    omega
  rw [handler_of_advance hflag hlink hsum]
  exact congrArg _ (State.rxAdvance_of_not_lt (s := rxByteState (prologueState s)) hend)

/-- Settles O28: the store is `rxByteState`'s, which writes no STATUS. -/
theorem activeReceptionContinues : Obligations.ActiveReceptionContinues := by
  intro s hflag hlink hsum hlt
  exact ⟨_, handlerGives_of_handler (handler_of_continue hflag hlink hsum hlt),
    storedBounded_of_rxCell fun _ _ => rfl, rxByteState_status (prologueState s), rfl⟩

/-- Settles O29: the store precedes the check. -/
theorem badHeaderChecksumAborts : Obligations.BadHeaderChecksumAborts := by
  intro s hflag hlink htwo hsum
  exact ⟨_, handlerGives_of_handler (handler_of_abort hflag hlink htwo hsum),
    storedBounded_of_rxCell fun _ _ => rfl, rxByteState_status (prologueState s), rfl⟩

/-- R112: STATUS of the slot just filled is all that completing a frame writes to the slots. -/
theorem rxSlot_rxCompleteState (s : State) (i : BitVec 1) :
    (rxCompleteState s).rxSlot i = ((rxByteState s).setRxStatus s.rxIn .complete).rxSlot i := rfl

/-- Settles O30: writing STATUS after the store leaves every cell as stored. -/
theorem lastByteCompletesFrame : Obligations.LastByteCompletesFrame := by
  intro s hflag hlink hsum hlast
  have hslot := rxSlot_rxCompleteState (prologueState s)
  refine ⟨_, handlerGives_of_handler (handler_of_complete hflag hlink hsum hlast),
    storedBounded_of_rxCell fun i a => ?_, ?_, ?_, rfl⟩
  · exact State.rxCell_setRxStatus _ s.rxIn i .complete a
  · rw [hslot]
    exact congrArg RxSlot.status (State.rxSlot_setRxStatus_self _ s.rxIn .complete)
  · rw [hslot]
    have hother := (rxByteState (prologueState s)).rxSlot_setRxStatus_of_ne .complete (slot_xor_ne s.rxIn)
    exact (congrArg RxSlot.status hother).trans (rxByteState_status (prologueState s) _)

/-! ## TX (R113, R114) -/

theorem handleTx_of_lt {s : State} (hlt : s.byteCount.toNat < s.totalBytes.toNat)
    (hfits : s.byteCount.toNat < txFrameSize s.params) : handleTx s = .next s.txSendByte := by
  rw [handleTx, if_pos (BitVec.lt_def.mpr hlt), if_pos hfits]

/-- Settles O31: with bytes left and the frame's end not reached, the branch is `txSendByte`. -/
theorem transmitSendsNextFrameByte : Obligations.TransmitSendsNextFrameByte := by
  intro s hflag hlink hlt hfits
  obtain ⟨b, hb, hsend⟩ := (prologueState s).txSendByte_eq
  refine ⟨b, hb, handlerGives_of_handler ?_⟩
  rw [handler_of_tx hlink hflag, handleTx_of_lt (s := prologueState s) hlt hfits, hsend]
  rfl

/-- Settles O32: with no byte left, the branch is `txDone`. -/
theorem transmitEndFreesSlot : Obligations.TransmitEndFreesSlot := by
  intro s hflag hlink hend
  refine handlerGives_of_handler ?_
  rw [handler_of_tx hlink hflag, handleTx_of_end (s := prologueState s) hend, State.txDone_eq]
  rfl

end Sys2Proof.Machine
end

section
/-! PROOF. A whole reception (spec/41_irq_service.md R107 to R112; spec/30_encoding.md R86): by induction on the bytes
of the frame that are still to come. -/

namespace Sys2Proof.Machine

/-! ## The header checksum (R86, R110) -/

/-- RX_CHECKSUM after these bytes of a frame. -/
def runningChecksum (bytes : List Byte) : Byte := bytes.foldl (· ^^^ ·) 0

theorem runningChecksum_take_succ {frame : List Byte} {k : Nat} (h : k < frame.length) :
    runningChecksum (frame.take (k + 1)) = runningChecksum (frame.take k) ^^^ frame[k] := by
  rw [runningChecksum, ← List.take_append_getElem h, List.foldl_append]
  rfl

/-- The header passes the check just when its third byte is the checksum of R86. -/
theorem runningChecksum_header_iff (l type c : Byte) :
    runningChecksum [l, type, c] = 0xFF ↔ c = l ^^^ type ^^^ 0xFF := by
  have hsum : runningChecksum [l, type, c] = l ^^^ type ^^^ c := by simp [runningChecksum]
  rw [hsum]
  constructor
  · intro h
    rw [← h, ← BitVec.xor_assoc, BitVec.xor_self, BitVec.zero_xor]
  · rintro rfl
    rw [← BitVec.xor_assoc, BitVec.xor_self, BitVec.zero_xor]

/-! ## The turns of agent IRQ (R7, R101) -/

/-- In a build that takes interrupts, the next invocations are agent IRQ's with FFIT = 1, one for each of `bytes`, which
the FIFO gives in this order. -/
structure Incoming (s : State) (bytes : List Byte) : Prop where
  ie : s.ie = true
  polling : s.params.pollingBuild = false
  schedule : s.schedule = List.replicate bytes.length .irq
  answers : bytes.length ≤ s.statusAnswers.length
  flags : ∀ S ∈ s.statusAnswers.take bytes.length, ffit s.params S = true
  fifo : s.fifoAnswers = bytes

/-- The state in which agent IRQ takes the turn at the schedule's head. -/
abbrev irqTurn (s : State) : State := { s with schedule := s.schedule.tail }

theorem Incoming.step_eq {s : State} {b : Byte} {rest : List Byte} (h : Incoming s (b :: rest)) :
    step s = handler (irqTurn s) := by
  have hsch : s.schedule = .irq :: List.replicate rest.length .irq := h.schedule
  rw [step_of_irq_permitted hsch h.ie h.polling, irqTurn, hsch, List.tail_cons]

theorem Incoming.flag {s : State} {b : Byte} {rest : List Byte} (h : Incoming s (b :: rest)) :
    ffit s.params (statusAnswerOf s) = true := by
  have hanswers := h.answers
  refine h.flags _ ?_
  cases hS : s.statusAnswers with
  | nil => simp [hS] at hanswers
  | cons S answers => simp [statusAnswerOf, hS]

theorem Incoming.fifoAnswerOf_eq {s : State} {b : Byte} {rest : List Byte} (h : Incoming s (b :: rest)) :
    fifoAnswerOf s = b := by
  rw [fifoAnswerOf, h.fifo, List.headD_cons]

/-- An invocation that reads one byte leaves the others to come. -/
theorem Incoming.tail {s u : State} {b : Byte} {rest : List Byte} (h : Incoming s (b :: rest)) (hie : u.ie = s.ie)
    (hparams : u.params = s.params) (hsch : u.schedule = s.schedule.tail)
    (hstatus : u.statusAnswers = s.statusAnswers.tail) (hfifo : u.fifoAnswers = s.fifoAnswers.tail) :
    Incoming u rest where
  ie := hie.trans h.ie
  polling := hparams ▸ h.polling
  schedule := by rw [hsch, h.schedule]; rfl
  answers := by
    have hanswers := h.answers
    rw [List.length_cons] at hanswers
    rw [hstatus, List.length_tail]
    omega
  flags := fun S hS => by
    have hmem : S ∈ (s.statusAnswers.take (rest.length + 1)).tail := by
      rw [List.tail_take_eq_take_tail]
      exact hstatus ▸ hS
    exact hparams ▸ h.flags S (List.mem_of_mem_tail hmem)
  fifo := by rw [hfifo, h.fifo, List.tail_cons]

/-! ## What a reception leaves alone -/

/-- What every invocation of a reception but the last leaves as it is, beside the cells of rx[RX_IN]: the pointers,
TX_STATUS, every slot's STATUS and the other slot (R107 to R111). -/
structure KeepsRest (s u : State) : Prop where
  params : u.params = s.params
  rxIn : u.rxIn = s.rxIn
  rxOut : u.rxOut = s.rxOut
  txStatus : u.txStatus = s.txStatus
  status : ∀ i, (u.rxSlot i).status = (s.rxSlot i).status
  other : u.rxSlot (s.rxIn ^^^ 1) = s.rxSlot (s.rxIn ^^^ 1)

theorem KeepsRest.trans {s u v : State} (h : KeepsRest s u) (h' : KeepsRest u v) : KeepsRest s v where
  params := h'.params.trans h.params
  rxIn := h'.rxIn.trans h.rxIn
  rxOut := h'.rxOut.trans h.rxOut
  txStatus := h'.txStatus.trans h.txStatus
  status := fun i => (h'.status i).trans (h.status i)
  other := (h.rxIn ▸ h'.other).trans h.other

theorem State.rxSlot_rxWrite_of_ne (s : State) {i j : BitVec 1} (off : Nat) (v : Byte) (h : j ≠ i) :
    (s.rxWrite i off v).rxSlot j = s.rxSlot j :=
  s.rxSlot_setRxSlot_of_ne _ h

theorem rxSlot_rxByteState_of_ne (s : State) {i : BitVec 1} (h : i ≠ s.rxIn) :
    (rxByteState s).rxSlot i = s.rxSlot i := by
  show (s.rxStoreBounded s.byteCount.toNat (fifoByteOf s)).rxSlot i = s.rxSlot i
  unfold State.rxStoreBounded
  split
  · exact s.rxSlot_rxWrite_of_ne _ _ h
  · rfl

/-! ## One invocation of a reception -/

/-- In RX_ACTIVE, the first `k` bytes of `frame` have been taken and the others are to come. -/
structure Filling (s : State) (frame : List Byte) (k : Nat) : Prop where
  incoming : Incoming s (frame.drop k)
  link : s.linkState = .rxActive
  count : s.byteCount.toNat = k
  checksum : s.rxChecksum = runningChecksum (frame.take k)
  cells : ∀ a, a < k → a < rxSlotSize s.params → s.rxCell s.rxIn a = frame[a]?

/-- R107: the first byte of a frame is accepted as its length. -/
theorem Incoming.accepts {s : State} {l : Byte} {rest : List Byte} (h : Incoming s (l :: rest))
    (hlink : s.linkState = .rxIdle) (hfree : (s.rxSlot s.rxIn).status = .free) :
    ∃ u, step s = .next u ∧ Filling u (l :: rest) 1 ∧ KeepsRest s u ∧ u.totalBytes.toNat = l.toNat + 3 := by
  have hl : fifoByteOf (prologueState (irqTurn s)) = l := h.fifoAnswerOf_eq
  have hcell := rxCell_rxAcceptState (prologueState (irqTurn s)) s.rxIn
  refine ⟨_, h.step_eq.trans (handler_of_accept (s := irqTurn s) h.flag hlink hfree), ?_, ?_, ?_⟩
  · refine ⟨h.tail rfl rfl rfl rfl rfl, rfl, rfl, ?_, fun a ha _ => ?_⟩
    · show fifoByteOf (prologueState (irqTurn s)) = runningChecksum [l]
      rw [hl]
      simp [runningChecksum]
    · obtain rfl : a = 0 := Nat.lt_one_iff.mp ha
      exact (hcell 0).trans ((if_pos ⟨rfl, rfl⟩).trans (congrArg some hl))
  · exact ⟨rfl, rfl, rfl, rfl, fun i => State.rxWrite_status _ s.rxIn i rxLenOffset _,
      State.rxSlot_rxWrite_of_ne _ rxLenOffset _ (slot_xor_ne s.rxIn)⟩
  · exact (rxTotal_toNat _).trans (by rw [hl])

section
variable {s : State} {frame : List Byte} {k : Nat} (h : Filling s frame k) (hk : k < frame.length)
include h hk

theorem Filling.incoming_cons : Incoming s (frame[k] :: frame.drop (k + 1)) :=
  List.drop_eq_getElem_cons hk ▸ h.incoming

/-- R108. -/
theorem Filling.checksum_next : s.rxChecksum ^^^ fifoAnswerOf s = runningChecksum (frame.take (k + 1)) := by
  rw [h.checksum, (h.incoming_cons hk).fifoAnswerOf_eq, runningChecksum_take_succ hk]

/-- R110: byte 2 passes the check when the header is good. -/
theorem Filling.passes_check (hgood : k = 2 → runningChecksum (frame.take 3) = 0xFF) :
    s.byteCount = 2 → s.rxChecksum ^^^ fifoAnswerOf s = 0xFF := by
  intro htwo
  have hk2 : k = 2 := h.count.symm.trans (congrArg BitVec.toNat htwo)
  rw [h.checksum_next hk, ← hgood hk2, hk2]

/-- R109: byte `k` of the frame joins those before it. -/
theorem Filling.rxCell_next {a : Nat} (ha : a < k + 1) (hroom : a < rxSlotSize s.params) :
    (rxByteState (prologueState (irqTurn s))).rxCell s.rxIn a = frame[a]? := by
  have hbyte : fifoByteOf (prologueState (irqTurn s)) = frame[k] := (h.incoming_cons hk).fifoAnswerOf_eq
  rw [rxCell_rxByteState]
  by_cases hak : a = k
  · subst hak
    rw [if_pos ⟨h.count.symm ▸ hroom, rfl, h.count.symm⟩, hbyte, List.getElem?_eq_getElem hk]
  · rw [if_neg fun ⟨_, _, hcount⟩ => hak (hcount.trans h.count)]
    exact h.cells a (by omega) hroom

/-- R111: a byte that is not the last. -/
theorem Filling.continues (hgood : k = 2 → runningChecksum (frame.take 3) = 0xFF)
    (hlt : k + 1 < s.totalBytes.toNat) :
    ∃ u, step s = .next u ∧ Filling u frame (k + 1) ∧ KeepsRest s u ∧ u.totalBytes = s.totalBytes := by
  have hin := h.incoming_cons hk
  have hcount : s.byteCount < s.totalBytes := by rw [BitVec.lt_def, h.count]; omega
  have hrun := handler_of_continue (s := irqTurn s) hin.flag h.link (h.passes_check hk hgood) (by rwa [h.count])
  refine ⟨_, hin.step_eq.trans hrun, ?_, ?_, rfl⟩
  · refine ⟨hin.tail rfl rfl rfl rfl rfl, h.link, ?_, h.checksum_next hk, fun a ha => h.rxCell_next hk ha⟩
    exact (toNat_add_one_of_lt hcount).trans (congrArg (· + 1) h.count)
  · exact ⟨rfl, rfl, rfl, rfl, rxByteState_status _, rxSlot_rxByteState_of_ne _ (slot_xor_ne s.rxIn)⟩

/-- R110: a bad header is abandoned. -/
theorem Filling.aborts (hk2 : k = 2) (hbad : runningChecksum (frame.take 3) ≠ 0xFF) :
    ∃ u, step s = .next u ∧ u.linkState = .rxIdle ∧ KeepsRest s u := by
  subst hk2
  have hin := h.incoming_cons hk
  have hrun := handler_of_abort (s := irqTurn s) hin.flag h.link (BitVec.eq_of_toNat_eq h.count)
    (h.checksum_next hk ▸ hbad)
  exact ⟨_, hin.step_eq.trans hrun, rfl, rfl, rfl, rfl, rfl, rxByteState_status _,
    rxSlot_rxByteState_of_ne _ (slot_xor_ne s.rxIn)⟩

end

/-! ## The whole frame -/

/-- From `s` to `t` the slot rx[RX_IN] has received `frame`, as much of it as the slot holds. -/
structure Received (s t : State) (frame : List Byte) : Prop where
  link : t.linkState = .rxIdle
  complete : (t.rxSlot s.rxIn).status = .complete
  rxIn : t.rxIn = s.rxIn ^^^ 1
  cells : ∀ a, a < frame.length → a < rxSlotSize s.params → t.rxCell s.rxIn a = frame[a]?
  other : t.rxSlot (s.rxIn ^^^ 1) = s.rxSlot (s.rxIn ^^^ 1)
  rxOut : t.rxOut = s.rxOut
  txStatus : t.txStatus = s.txStatus

theorem KeepsRest.received {s u t : State} {frame : List Byte} (h : KeepsRest s u) (hr : Received u t frame) :
    Received s t frame where
  link := hr.link
  complete := h.rxIn ▸ hr.complete
  rxIn := h.rxIn ▸ hr.rxIn
  cells := h.rxIn ▸ h.params ▸ hr.cells
  other := (h.rxIn ▸ hr.other).trans h.other
  rxOut := hr.rxOut.trans h.rxOut
  txStatus := hr.txStatus.trans h.txStatus

/-- R112: the last byte. -/
theorem Filling.completes {s : State} {frame : List Byte} {k : Nat} (h : Filling s frame k)
    (hlast : k + 1 = frame.length) (hgood : runningChecksum (frame.take 3) = 0xFF)
    (htotal : s.totalBytes.toNat = frame.length) : ∃ t, step s = .next t ∧ Received s t frame := by
  have hk : k < frame.length := by omega
  have hin := h.incoming_cons hk
  have hrun := handler_of_complete (s := irqTurn s) hin.flag h.link (h.passes_check hk fun _ => hgood)
    (by rw [h.count, htotal, hlast])
  have hslot := rxSlot_rxCompleteState (prologueState (irqTurn s))
  refine ⟨_, hin.step_eq.trans hrun, rfl, ?_, rfl, fun a ha hroom => ?_, ?_, rfl, rfl⟩
  · rw [hslot]
    exact congrArg RxSlot.status (State.rxSlot_setRxStatus_self _ s.rxIn .complete)
  · exact (State.rxCell_setRxStatus _ s.rxIn s.rxIn .complete a).trans (h.rxCell_next hk (by omega) hroom)
  · rw [hslot]
    exact (State.rxSlot_setRxStatus_of_ne _ .complete (slot_xor_ne s.rxIn)).trans
      (rxSlot_rxByteState_of_ne _ (slot_xor_ne s.rxIn))

/-- By induction on the number `n` of bytes to come before the last. -/
theorem Filling.run {s : State} {frame : List Byte} {k : Nat} (h : Filling s frame k)
    (hgood : runningChecksum (frame.take 3) = 0xFF) (n : Nat) (hn : k + n + 1 = frame.length)
    (htotal : s.totalBytes.toNat = frame.length) :
    ∃ t, Host.Core.run core (n + 1) s = .next t ∧ Received s t frame := by
  induction n generalizing s k with
  | zero =>
    obtain ⟨t, hstep, ht⟩ := h.completes hn hgood htotal
    exact ⟨t, run_succ_of_step (M := core) hstep 0, ht⟩
  | succ n ih =>
    obtain ⟨u, hstep, hu, hkeep, htotalu⟩ := h.continues (by omega) (fun _ => hgood) (by omega)
    obtain ⟨t, hrun, ht⟩ := ih hu (by omega) (htotalu ▸ htotal)
    exact ⟨t, (run_succ_of_step (M := core) hstep _).trans hrun, hkeep.received ht⟩

/-- Settles O57: the length byte is accepted, and the rest of the frame is taken by `Filling.run`. -/
theorem receptionStoresWholeFrame : Obligations.ReceptionStoresWholeFrame := by
  intro s type d hd hie hpoll hlink hfree hsch hanswers hflags hfifo
  have hin : Incoming s (BitVec.ofNat 8 d.length :: type :: (BitVec.ofNat 8 d.length ^^^ type ^^^ 0xFF) :: d) :=
    ⟨hie, hpoll, hsch, hanswers, hflags, hfifo⟩
  obtain ⟨u, hstep, hu, hkeep, htotal⟩ := hin.accepts hlink hfree
  have hlength : (BitVec.ofNat 8 d.length).toNat = d.length := by
    rw [BitVec.toNat_ofNat]
    exact Nat.mod_eq_of_lt (by omega)
  obtain ⟨t, hrun, ht⟩ := hu.run ((runningChecksum_header_iff ..).mpr rfl) (d.length + 1)
    (by simp only [List.length_cons]; omega) (htotal.trans (by rw [hlength]; rfl))
  have hr := hkeep.received ht
  have hheader : ∀ a, a < 3 → a < rxSlotSize s.params := fun a ha => lt_of_lt_of_le ha (Nat.le_add_left 3 _)
  refine ⟨t, (run_succ_of_step (M := core) hstep _).trans hrun, hr.link, hr.complete, hr.rxIn,
    hr.cells 0 (Nat.succ_pos _) (hheader 0 (by decide)), hr.cells 1 (by simp) (hheader 1 (by decide)),
    hr.cells 2 (by simp) (hheader 2 (by decide)), fun j hj hroom => ?_, hr.other, hr.rxOut, hr.txStatus⟩
  rw [hr.cells (3 + j) (by simp only [List.length_cons]; omega) (by unfold rxSlotSize; omega), Nat.add_comm 3 j]
  rfl

/-- Settles O58: the third byte of the header is where the reception ends. -/
theorem corruptHeaderAbandonsFrame : Obligations.CorruptHeaderAbandonsFrame := by
  intro s l type c S0 S1 S2 hc hie hpoll hlink hfree hsch hanswers h0 h1 h2 hfifo
  have hin : Incoming s [l, type, c] := by
    refine ⟨hie, hpoll, hsch, by rw [hanswers]; exact le_rfl, ?_, hfifo⟩
    simp [hanswers, h0, h1, h2]
  obtain ⟨u, hstep, hu, hkeep, htotal⟩ := hin.accepts hlink hfree
  obtain ⟨v, hstep', hv, hkeep', -⟩ := hu.continues (by simp) nofun (by omega)
  obtain ⟨t, hstep'', hidle, hkeep''⟩ := hv.aborts (by simp) rfl (mt (runningChecksum_header_iff l type c).mp hc)
  have hall := (hkeep.trans hkeep').trans hkeep''
  refine ⟨t, ?_, hidle, hall.rxIn, hall.status, hall.other⟩
  rw [run_succ_of_step (M := core) hstep, run_succ_of_step (M := core) hstep', run_succ_of_step (M := core) hstep'']
  rfl

end Sys2Proof.Machine
end

section
/-! PROOF. The tick scheduler (spec/42_tick_scheduler.md R117 to R124): each micro-step of TICK as one record update,
then whole ticks with no interrupt inside, from the micro-steps. -/

namespace Sys2Proof.Machine

/-! ## The micro-step that runs (R64, R117) -/

theorem exec_tick_of_idle {s : State} (h : s.main = .idle) : exec .tick s = .next (tickT0 s) := by
  simp only [exec, execTick, h]

theorem exec_tick_of_sample {s : State} (h : s.main = .tickSample) : exec .tick s = .next (tickT1 s) := by
  simp only [exec, execTick, h]

theorem exec_tick_of_decide {s : State} {S : Word16} (h : s.main = .tickDecide S) :
    exec .tick s = .next (tickT2 S s) := by
  simp only [exec, execTick, h]

theorem exec_tick_of_start {s : State} (h : s.main = .tickStart) : exec .tick s = .next (tickT3 s) := by
  simp only [exec, execTick, h]

/-! ## T0 and T1 (R118, R119) -/

theorem tickT0_of_rxIdle {s : State} (h : s.linkState = .rxIdle) : tickT0 s = { s with main := .tickSample } := by
  rw [tickT0, h]

theorem tickT0_of_busy {s : State} (h : s.linkState ≠ .rxIdle) :
    tickT0 s = s.resetFreeCount.finish .tick resDone := by
  cases hlink : s.linkState with
  | rxIdle => exact absurd hlink h
  | rxActive => rw [tickT0, hlink]
  | tx => rw [tickT0, hlink]

/-- The state after T1: IE goes off and on around one STATUS_READ, whose answer MAIN's position holds. -/
abbrev sampledState (s : State) : State :=
  { s with
    ie := true, statusAnswers := s.statusAnswers.tail, draws := s.draws + 1, main := .tickDecide (statusAnswerOf s)
    obs := .ie true :: .spi .statusRead s.params.spi.statusRead (some (statusAnswerOf s))
      :: ((if s.ie then [.ie false] else []) ++ s.obs) }

theorem tickT1_eq (s : State) : tickT1 s = sampledState s := by
  simp only [tickT1, State.setIe_false, State.spiStatusRead_eq, State.setIe_true]
  rfl

/-- Clearing IE sends nothing, whether or not it is observed. -/
theorem sentBytes_ieOff (s : State) : sentBytes ((if s.ie then [.ie false] else []) ++ s.obs) = sentBytes s.obs := by
  cases s.ie <;> rfl

theorem sentBytes_sampledState (s : State) : sentBytes (sampledState s).obs = sentBytes s.obs :=
  sentBytes_ieOff s

/-! ## T3 (R123) -/

/-- A reception that began after T0 wins where the build rechecks. -/
theorem tickT3_of_recheck {s : State} (hcheck : s.params.tickRecheck = true) (hlink : s.linkState ≠ .rxIdle) :
    tickT3 s = { s with
      freeCount := s.params.channelFreeTime, ie := true, main := .idle, hostRes := some resDone
      obs := .result .tick resDone :: .ie true :: ((if s.ie then [.ie false] else []) ++ s.obs) } := by
  have hbody : tickStartBody (s.setIe false) = (s.setIe false).resetFreeCount := by
    rw [State.setIe_false]
    exact if_pos ⟨hcheck, hlink⟩
  rw [tickT3, State.criticalSection, hbody, State.setIe_false, State.setIe_true]
  rfl

theorem tickT3_of_start {s : State} (h : s.params.tickRecheck = true → s.linkState = .rxIdle) :
    tickT3 s = ((s.setIe false).startTransmission.setIe true).finish .tick resDone := by
  have hbody : tickStartBody (s.setIe false) = (s.setIe false).startTransmission := by
    rw [State.setIe_false]
    exact if_neg fun ⟨hcheck, hlink⟩ => hlink (h hcheck)
  rw [tickT3, State.criticalSection, hbody]

/-- The transmission start, `l` being what tx.LEN reads as: its byte, or a draw when the cell is UNSPEC. -/
theorem State.startTransmission_eq (s : State) :
    ∃ l : Byte, (∀ c, s.txCell txLenOffset = some c → l = c) ∧ s.startTransmission = { s with
      draws := if (s.txCell txLenOffset).isSome then s.draws else s.draws + 1
      totalBytes := l.zeroExtend 16 + BitVec.ofNat 16 s.params.txOverhead, byteCount := 0, linkState := .tx
      obs := .spi (.pwrTransmit s.params.ewb) (pwrTransmitWord s.params.spi s.params.ewb) none
        :: .spi (.txWrite s.params.preamble) (txWriteWord s.params.spi s.params.preamble) none
        :: .spi (.txWrite s.params.preamble) (txWriteWord s.params.spi s.params.preamble) none
        :: .spi (.pwrStandby s.params.ewb) (pwrStandbyWord s.params.spi s.params.ewb) none :: s.obs } := by
  cases hc : s.txCell txLenOffset with
  | some l => exact ⟨l, by simp, State.startTransmission_of_some hc⟩
  | none =>
    have hcell : (s.spiPwrStandby s.params.ewb).txCell txLenOffset = none := hc
    refine ⟨Config.unspecByte s.draws, by simp, ?_⟩
    simp only [State.startTransmission, State.txRead_of_none hcell]
    rfl

/-! ## The obligations on one micro-step -/

/-- Settles O33. -/
theorem tickBusyCheck : Obligations.TickBusyCheck := by
  refine fun s hmain => ⟨fun hbusy => ?_, fun hidle => ?_⟩
  · rw [exec_tick_of_idle hmain, tickT0_of_busy hbusy]
    rfl
  · rw [exec_tick_of_idle hmain, tickT0_of_rxIdle hidle]

/-- Settles O34. -/
theorem tickSamplesCarrierMasked : Obligations.TickSamplesCarrierMasked := fun s hmain => by
  rw [exec_tick_of_sample hmain, tickT1_eq]

/-- Settles O35: the count is `countDown`, and the gate passes just when it is 0 and TX_STATUS is OCCUPIED. -/
theorem tickCountsClearSamples : Obligations.TickCountsClearSamples := by
  intro s S hmain
  rw [exec_tick_of_decide hmain]
  refine ⟨fun hcarrier => ?_, fun hclear =>
    ⟨countDown s.freeCount, countDown_toNat s.freeCount, fun ⟨hzero, hocc⟩ => ?_, fun hstop => ?_⟩⟩
  · rw [tickT2_of_carrier hcarrier]
    rfl
  · rw [tickT2_of_gate hclear hzero hocc]
  · have hgate : ¬ (countDown s.freeCount = 0 ∧ s.txStatus = .occupied) := by
      rintro ⟨hzero, hocc⟩
      obtain hcount | hfree := hstop
      · exact hcount hzero
      · rw [hocc] at hfree
        cases hfree
    rw [tickT2_of_not_gate hclear hgate]
    rfl

/-- Settles O36. -/
theorem tickRecheckYieldsToReception : Obligations.TickRecheckYieldsToReception := fun s hmain hcheck hlink => by
  rw [exec_tick_of_start hmain, tickT3_of_recheck hcheck hlink]
  rfl

/-- Settles O37: the transmission start, with IE off and on around it. -/
theorem tickStartsTransmission : Obligations.TickStartsTransmission := by
  intro s hmain hstart
  obtain ⟨l, hl, heq⟩ := (s.setIe false).startTransmission_eq
  rw [exec_tick_of_start hmain, tickT3_of_start hstart, heq]
  simp only [State.setIe_false, State.setIe_true] at hl ⊢
  exact ⟨l, _, hl, rfl, txTotal_toNat s.params l, rfl⟩

/-! ## A whole TICK with no interrupt inside (R124) -/

/-- T0 of the TICK at the schedule's head, in RX_IDLE (R6, R118). -/
theorem step_of_tickCmd {s : State} {rest : List Event} (hmain : s.main = .idle) (hlink : s.linkState = .rxIdle)
    (hsch : s.schedule = .issue tickCmd :: rest) : step s = .next { s with schedule := rest, main := .tickSample } :=
  (step_of_present (fetch_of_issue_idle hmain hsch) rfl).trans
    ((tickBusyCheck { s with schedule := rest } hmain).2 hlink)

/-- With only commands ahead, an operation in progress goes on in the state as it stands (R6). -/
theorem step_of_inside {s : State} {i : Instr} {c : HostCmd} {k : Nat} (hi : operationAt s.main = some i)
    (hsch : s.schedule = List.replicate k (.issue c)) : step s = exec i s := by
  obtain ⟨hnil, hissue, -⟩ := operationInProgressGoesOnFirst s i hi
  cases k with
  | zero => exact hnil hsch
  | succ k => exact hissue c _ hsch

/-- The state of the TICK at the schedule's head after T1. -/
abbrev tickSampled (s : State) : State := sampledState { s with schedule := s.schedule.tail }

/-- T0, T1 and T2 of a TICK issued in RX_IDLE. -/
theorem run_tick_of_rxIdle {s : State} {k : Nat} (hmain : s.main = .idle) (hlink : s.linkState = .rxIdle)
    (hsch : s.schedule = List.replicate (k + 1) (.issue tickCmd)) (n : Nat) :
    Host.Core.run core (n + 3) s = Host.Core.run core n (tickT2 (statusAnswerOf s) (tickSampled s)) := by
  have htail : s.schedule.tail = List.replicate k (.issue tickCmd) := by rw [hsch]; rfl
  have hhead : s.schedule = .issue tickCmd :: s.schedule.tail := by rw [htail, hsch]; rfl
  have h0 : step s = .next { s with schedule := s.schedule.tail, main := .tickSample } :=
    step_of_tickCmd hmain hlink hhead
  have h1 : step { s with schedule := s.schedule.tail, main := .tickSample } = .next (tickSampled s) :=
    (step_of_inside rfl htail).trans (tickSamplesCarrierMasked _ rfl)
  have h2 : step (tickSampled s) = .next (tickT2 (statusAnswerOf s) (tickSampled s)) :=
    (step_of_inside rfl htail).trans (exec_tick_of_decide rfl)
  rw [run_succ_of_step (M := core) h0, run_succ_of_step (M := core) h1, run_succ_of_step (M := core) h2]

/-! ## Fewer clear ticks than FREE_COUNT -/

/-- `k` TICKs stand in the schedule, fewer than FREE_COUNT, in RX_IDLE and with a clear channel for each. -/
structure ClearTicks (s : State) (k : Nat) : Prop where
  main : s.main = .idle
  link : s.linkState = .rxIdle
  count : k < s.freeCount.toNat
  schedule : s.schedule = List.replicate k (.issue tickCmd)
  answers : k ≤ s.statusAnswers.length
  clear : ∀ S ∈ s.statusAnswers.take k, rssi s.params S = false

/-- R127: while the environment has fixed an answer, STATUS_READ takes it. -/
theorem statusAnswerOf_mem_take {s : State} {k : Nat} (h : k + 1 ≤ s.statusAnswers.length) :
    statusAnswerOf s ∈ s.statusAnswers.take (k + 1) := by
  cases hS : s.statusAnswers with
  | nil => simp [hS] at h
  | cons S answers => simp [statusAnswerOf, hS]

/-- What TICKs that start nothing keep. -/
structure HeldBack (s t : State) (k : Nat) : Prop where
  link : t.linkState = .rxIdle
  main : t.main = .idle
  count : t.freeCount.toNat = s.freeCount.toNat - k
  txStatus : t.txStatus = s.txStatus
  sent : sentBytes t.obs = sentBytes s.obs

/-- R121, R122: FREE_COUNT is still above 0 after the decrement, so the gate holds the frame back. -/
theorem ClearTicks.tick {s : State} {k : Nat} (h : ClearTicks s (k + 1)) :
    ∃ u, (∀ n, Host.Core.run core (n + 3) s = Host.Core.run core n u) ∧ ClearTicks u k ∧ HeldBack s u 1 := by
  have hcount := h.count
  have hdown := countDown_toNat s.freeCount
  have hpos : (countDown s.freeCount).toNat ≠ 0 := by omega
  have hgate : ¬ (countDown s.freeCount = 0 ∧ s.txStatus = .occupied) := fun ⟨hzero, _⟩ =>
    hpos (congrArg BitVec.toNat hzero)
  have hT2 := tickT2_of_not_gate (s := tickSampled s) (h.clear _ (statusAnswerOf_mem_take h.answers)) hgate
  refine ⟨_, fun n => (run_tick_of_rxIdle h.main h.link h.schedule n).trans (congrArg (Host.Core.run core n) hT2),
    ?_, h.link, rfl, hdown, rfl, sentBytes_sampledState _⟩
  refine ⟨rfl, h.link, ?_, ?_, ?_, fun S hS => h.clear S (List.mem_of_mem_tail ?_)⟩
  · show k < (countDown s.freeCount).toNat
    omega
  · show s.schedule.tail = List.replicate k (.issue tickCmd)
    rw [h.schedule]
    rfl
  · show k ≤ s.statusAnswers.tail.length
    have hanswers := h.answers
    rw [List.length_tail]
    omega
  · rw [List.tail_take_eq_take_tail]
    exact hS

theorem ClearTicks.run {s : State} {k : Nat} (h : ClearTicks s k) :
    ∃ t, Host.Core.run core (3 * k) s = .next t ∧ HeldBack s t k := by
  induction k generalizing s with
  | zero => exact ⟨s, rfl, h.link, h.main, rfl, rfl, rfl⟩
  | succ k ih =>
    obtain ⟨u, hrun, hu, hheld⟩ := h.tick
    obtain ⟨t, hrest, ht⟩ := ih hu
    refine ⟨t, (hrun (3 * k)).trans hrest, ht.link, ht.main, ?_, ht.txStatus.trans hheld.txStatus,
      ht.sent.trans hheld.sent⟩
    rw [ht.count, hheld.count, Nat.sub_sub, Nat.add_comm]

/-- Settles O38. -/
theorem debounceHoldsTransmissionBack : Obligations.DebounceHoldsTransmissionBack := by
  intro k s hmain hlink hcount hsch hanswers hclear
  obtain ⟨t, hrun, ht⟩ := ClearTicks.run ⟨hmain, hlink, hcount, hsch, hanswers, hclear⟩
  exact ⟨t, hrun, ht.link, ht.main, ht.count, ht.txStatus, ht.sent⟩

/-! ## The tick that starts the transmission -/

/-- A FREE_COUNT of at most 1 counts down to 0. -/
theorem countDown_eq_zero {n : Byte} (h : n.toNat ≤ 1) : countDown n = 0 :=
  BitVec.eq_of_toNat_eq ((countDown_toNat n).trans (Nat.sub_eq_zero_of_le h))

/-- The state of the TICK at the schedule's head once T2's gate has passed. -/
abbrev tickGated (s : State) : State :=
  { tickSampled s with freeCount := countDown s.freeCount, main := .tickStart }

/-- Settles O60: T2's gate passes, and T3 is the transmission start of O37. -/
theorem clearTickStartsWaitingFrame : Obligations.ClearTickStartsWaitingFrame := by
  intro s l hmain hlink hsch hocc hlen hcount hclear
  have hzero := countDown_eq_zero hcount
  have hgate : tickT2 (statusAnswerOf s) (tickSampled s) = tickGated s :=
    tickT2_of_gate (s := tickSampled s) hclear hzero hocc
  obtain ⟨l', t, hl, hexec, htotal, ht⟩ := tickStartsTransmission (tickGated s) rfl fun _ => hlink
  have hnone : (tickGated s).schedule = List.replicate 0 (.issue tickCmd) := congrArg List.tail hsch
  have hstep : step (tickGated s) = .next t := (step_of_inside rfl hnone).trans hexec
  have hrun : Host.Core.run core 4 s = .next t := by
    rw [run_tick_of_rxIdle (k := 0) hmain hlink hsch 1, hgate, run_succ_of_step (M := core) hstep]
    rfl
  have hsent : sentBytes t.obs = sentBytes s.obs ++ [s.params.preamble, s.params.preamble] := by
    have hstart : sentBytes t.obs = sentBytes ((if (tickGated s).ie then [.ie false] else []) ++ (tickGated s).obs)
        ++ [s.params.preamble] ++ [s.params.preamble] := congrArg (fun v => sentBytes v.obs) ht
    have hbefore : sentBytes (tickGated s).obs = sentBytes s.obs := sentBytes_sampledState _
    rw [hstart, sentBytes_ieOff, hbefore, List.append_assoc]
    rfl
  exact ⟨t, hrun, congrArg State.linkState ht, congrArg State.byteCount ht, hl l hlen ▸ htotal,
    (congrArg State.freeCount ht).trans hzero, congrArg State.ie ht, congrArg State.main ht,
    congrArg State.hostRes ht, (congrArg State.txStatus ht).trans hocc, hsent⟩

end Sys2Proof.Machine
end

section
/-! PROOF. The transceiver commands (spec/43_transceiver_commands.md R126 to R135): the word that running a command puts
on the SPI port is the command's encoding, and so the raw word that decoded to it. -/

namespace Sys2Proof.Machine

/-! ## A command is one transfer of its encoding (R126) -/

/-- R128: the answer is taken and stored nowhere. -/
theorem exec_statusRead_of_encode {s : State} {w : Word16} (h : encode s.params .statusRead = .spi w) :
    exec .statusRead s = .next { s with
      statusAnswers := s.statusAnswers.tail, draws := s.draws + 1
      obs := .spi .statusRead w (some (statusAnswerOf s)) :: s.obs } := by
  cases h
  rw [exec, execStatusRead, State.spiStatusRead_eq]

/-- R129: the answer is taken and stored nowhere. -/
theorem exec_fifoRead_of_encode {s : State} {w : Word16} (h : encode s.params .fifoRead = .spi w) :
    exec .fifoRead s = .next { s with
      fifoAnswers := s.fifoAnswers.tail, draws := s.draws + 1
      obs := .spi .fifoRead w (some ((s.fifoAnswers.headD (Config.fifoAnswer s.draws)).zeroExtend 16)) :: s.obs } := by
  cases h
  rw [exec, execFifoRead, State.spiFifoRead_eq, fifoReadObs]

/-- R130 to R135: the commands without an answer only send. -/
theorem exec_of_encode_of_no_answer {s : State} {i : Instr} {w : Word16} (hi : isSpiCommand i = true)
    (h : encode s.params i = .spi w) (hstatus : i ≠ .statusRead) (hfifo : i ≠ .fifoRead) :
    exec i s = .next { s with obs := .spi i w none :: s.obs } := by
  cases i <;> cases hi
  case statusRead => exact absurd rfl hstatus
  case fifoRead => exact absurd rfl hfifo
  all_goals cases h; rfl

/-! ## The obligation -/

/-- Settles O39: the raw word is the encoding of what it decodes to (O4). -/
theorem transferPutsTheWordOnThePort : Obligations.TransferPutsTheWordOnThePort := by
  intro s w i hdec
  have hword : encode s.params i = .spi w := encode_of_decodeSpi hdec
  refine ⟨?_, ?_, exec_of_encode_of_no_answer (decodeSpi_isSpiCommand hdec) hword⟩
  · rintro rfl
    exact exec_statusRead_of_encode hword
  · rintro rfl
    exact ⟨_, rfl, exec_fifoRead_of_encode hword⟩

end Sys2Proof.Machine
end

section
/-! PROOF. The errors a host operation returns (spec/60_exceptions.md R143 to R147): which result each one gives, and
that beside it at most one MISUSE bit is recorded. -/

namespace Sys2Proof.Machine

/-! ## Capacity exhaustion (R145) -/

section
variable {type length : Byte} {data : List Byte} {s : State} {i : Instr}

/-- R145, R147: while a frame is pending the length is not looked at. -/
theorem exec_enqueueing_of_occupied
    (hi : i = .enqueue type length ∨ (i = .copyEnqueue type length data ∧ data.length = length.toNat))
    (hocc : s.txStatus = .occupied) : exec i s = .next (s.finish i resOccupied) := by
  obtain rfl | ⟨rfl, hdata⟩ := hi
  · simp only [exec, execEnqueue, enqueueOp, hocc]
  · simp only [exec, execCopyEnqueue, if_pos hdata, copyEnqueueOp, hocc]

/-- R145: a payload that is too long leaves the slot FREE. -/
theorem exec_enqueueing_of_too_long
    (hi : i = .enqueue type length ∨ (i = .copyEnqueue type length data ∧ data.length = length.toNat))
    (hfree : s.txStatus = .free) (hlen : s.params.txBufferSize < length.toNat) :
    exec i s = .next (s.finish i resError) := by
  have hbad : ¬ txLengthOk s.params length = true := by simpa [txLengthOk] using hlen
  obtain rfl | ⟨rfl, hdata⟩ := hi
  · simp only [exec, execEnqueue, enqueueOp, hfree, if_neg hbad]
  · simp only [exec, execCopyEnqueue, if_pos hdata, copyEnqueueOp, hfree, if_neg hbad]

end

/-- Settles O14. -/
theorem failedEnqueueChangesNothing : Obligations.FailedEnqueueChangesNothing :=
  fun _ _ _ _ _ hi => ⟨exec_enqueueing_of_occupied hi, exec_enqueueing_of_too_long hi⟩

/-! ## Bad buffer index (R144) -/

theorem exec_readRxp_of_bad_index {index : Byte} {s : State} (h : s.params.rxBufferSize ≤ index.toNat) :
    exec (.readRxp index) s = .next (s.raiseBadIndex (.readRxp index) index) := by
  have hbad : ¬ rxIndexOk s.params index = true := by simpa [rxIndexOk] using h
  simp only [exec, execReadRxp, if_neg hbad]

/-- R144, R147: the index test comes first, so M_TXWRITE is not recorded even while OCCUPIED. -/
theorem exec_writeTxp_of_bad_index {index : Byte} (value : Byte) {s : State}
    (h : s.params.txBufferSize ≤ index.toNat) :
    exec (.writeTxp index value) s = .next (s.raiseBadIndex (.writeTxp index value) index) := by
  have hbad : ¬ txIndexOk s.params index = true := by simpa [txIndexOk] using h
  simp only [exec, execWriteTxp, writeTxpOp, if_neg hbad]

/-- Settles O17: both operations raise BADINDEX, and `raiseBadIndex_eq` says all that it does. -/
theorem badIndexTouchesNoCell : Obligations.BadIndexTouchesNoCell := by
  intro index value s i hi
  have hraise : exec i s = .next (s.raiseBadIndex i index) := by
    obtain ⟨rfl, hrx⟩ | ⟨rfl, htx⟩ := hi
    · exact exec_readRxp_of_bad_index hrx
    · exact exec_writeTxp_of_bad_index value htx
  rw [hraise, State.raiseBadIndex_eq]
  rfl

/-! ## Illegal command (R143) -/

theorem exec_illegal (word : Word32) (data : Option (List Byte)) (s : State) :
    exec (.illegal word data) s = .next (s.raiseIllegal (.illegal word data)) := rfl

/-- Settles O23: the command decodes to ILLEGAL (O1), and `raiseIllegal_eq` says all that it does. -/
theorem illegalCommandOnlyRecordsMisuse : Obligations.IllegalCommandOnlyRecordsMisuse := by
  intro s c rest hm hissue hillegal
  have hdec : decodeHost s.params.pollingBuild c = .illegal c.word c.data := decodeHost_of_illegal hillegal
  refine ⟨step_of_present (fetch_of_issue_idle hm hissue) (congrArg Except.ok hdec), ?_⟩
  rw [exec_illegal, State.raiseIllegal_eq]
  rfl

end Sys2Proof.Machine
end

section
/-! PROOF. Reset and hazards (spec/70_reset_and_hazards.md): IE between operations (R176), and a second INIT after a
first (R163). -/

namespace Sys2Proof.Machine

/-! ## IE is 0 only inside a masked body (R176) -/

/-- R176's condition: IE is 1, or MAIN is inside the body of INIT or SW_RESET. -/
def IeOnOutsideBodies (s : State) : Prop := s.ie = true ∨ insideMasked s.main = true

theorem outside_masked_of_tick {pos : MainPos} (h : insideTick pos = true) : insideMasked pos = false :=
  Bool.eq_false_iff.mpr fun hmask => Bool.eq_false_iff.mp (outside_tick_of_masked hmask) h

theorem IeOnOutsideBodies.ie_eq_true {s : State} (hs : IeOnOutsideBodies s) (hout : insideMasked s.main = false) :
    s.ie = true :=
  hs.resolve_right (Bool.eq_false_iff.mp hout)

/-- The micro-steps that leave a body set IE. Those of RELEASE and TICK start outside both bodies, so with IE = 1, and
leave IE as it is or set it. -/
theorem Effect.keeps_ieOnOutsideBodies {s u : State} (h : Effect s u) (hs : IeOnOutsideBodies s) :
    IeOnOutsideBodies u := by
  cases h with
  | handler hh =>
    rw [IeOnOutsideBodies, hh.main_eq, hh.ie_eq]
    exact hs
  | queue | writeTxp | record => exact hs
  | mask pos hmain hpos => exact .inr hpos
  | initRegisters | unmask | tickSampled | tickTransmit => exact .inl rfl
  | tickRestart v hmain hv =>
    have hout : insideMasked s.main = false := hmain.elim (congrArg insideMasked) outside_masked_of_tick
    exact .inl (hv.elim (·.trans (hs.ie_eq_true hout)) id)
  | release m hmain | toggle hmain | tickBegin hmain | tickGate S hmain | tickCount S hmain =>
    exact .inl (hs.ie_eq_true (congrArg insideMasked hmain))

/-- Settles O49. -/
theorem interruptOffOnlyInsideInitOrSwReset : Obligations.InterruptOffOnlyInsideInitOrSwReset :=
  fun _ _ hs h => (step_effect h).keeps_ieOnOutsideBodies hs

/-! ## A whole INIT with no interrupt inside (R90, R163) -/

/-- What INIT makes of a state, with what is then left of the schedule and what is then observed. -/
def State.initialised (s : State) (rest : List Event) (seen : List Obs) : State :=
  { s.initRegisters with ie := true, main := .idle, hostRes := some resDone, schedule := rest, obs := seen }

/-- Every value that INIT writes is a constant or depends on the parameters alone, and INIT writes no parameter. -/
theorem State.initialised_initialised (s : State) (rest rest' : List Event) (seen seen' : List Obs) :
    (s.initialised rest seen).initialised rest' seen' = s.initialised rest' seen' := rfl

/-- m1 clears IE and moves MAIN, and m2 overwrites both. -/
theorem initFinish_initStart (s : State) : ∃ seen, initFinish (initStart s) = s.initialised s.schedule seen := by
  rw [initStart, State.setIe_false, initFinish_eq]
  exact ⟨_, rfl⟩

/-- m1 of the INIT at the schedule's head (R6, R90). -/
theorem step_of_initCmd {s : State} {rest : List Event} (hmain : s.main = .idle)
    (hsch : s.schedule = .issue initCmd :: rest) : step s = .next (initStart { s with schedule := rest }) :=
  (step_of_present (fetch_of_issue_idle hmain hsch) rfl).trans (exec_init_of_outside (hmain ▸ nofun))

/-- m2 of an INIT with only commands ahead (R6, R90). -/
theorem step_initStart {s : State} {c : HostCmd} {k : Nat} (hsch : s.schedule = List.replicate k (.issue c)) :
    ∃ seen, step (initStart s) = .next (s.initialised s.schedule seen) := by
  obtain ⟨seen, hdone⟩ := initFinish_initStart s
  have hahead : (initStart s).schedule = List.replicate k (.issue c) := by
    rw [initStart, State.setIe_false]
    exact hsch
  exact ⟨seen, hdone ▸ (step_of_inside rfl hahead).trans (exec_init_of_inside rfl)⟩

/-- The INIT at the schedule's head, with only commands behind it. -/
theorem run_init {s : State} {c : HostCmd} {k : Nat} (hmain : s.main = .idle)
    (hsch : s.schedule = .issue initCmd :: List.replicate k (.issue c)) :
    ∃ seen, ∀ n, Host.Core.run core (n + 2) s =
      Host.Core.run core n (s.initialised (List.replicate k (.issue c)) seen) := by
  obtain ⟨seen, hbody⟩ := step_initStart (s := { s with schedule := List.replicate k (.issue c) }) rfl
  exact ⟨seen, fun n => (run_succ_of_step (M := core) (step_of_initCmd hmain hsch) (n + 1)).trans
    (run_succ_of_step (M := core) hbody n)⟩

/-- Settles O11: `run_init` for the one INIT, and twice for the two, where `initialised_initialised` says that the
second leaves what the first left. -/
theorem secondInitChangesNothing : Obligations.SecondInitChangesNothing := by
  intro s hmain
  obtain ⟨seen, hone⟩ := run_init (s := { s with schedule := [.issue initCmd] }) (c := initCmd) (k := 0) hmain rfl
  obtain ⟨seen₁, hfirst⟩ :=
    run_init (s := { s with schedule := [.issue initCmd, .issue initCmd] }) (c := initCmd) (k := 1) hmain rfl
  obtain ⟨seen₂, hsecond⟩ := run_init (s := s.initialised [.issue initCmd] seen₁) (c := initCmd) (k := 0) rfl rfl
  simp only [State.initialised_initialised] at hsecond
  exact ⟨s.initialised [] seen, s.initialised [] seen₂, hone 0, (hfirst 2).trans (hsecond 0), rfl, rfl, rfl, rfl⟩

end Sys2Proof.Machine
end
